-- ==== Sys2Proof/Word.lean ====
section
/-! DEFINITION. The widths the spec fixes (00_scope.md R5) and the value types of its notation
(00_scope.md section 5.1): lines, bit orders, levels and tri-bits. -/

namespace Sys2Proof

/-- Bits in one frame, and stages in the attached register (R5 `WIDTH`). -/
abbrev frameWidth : Nat := 8

/-- Bits in a command word of the one format `CMD10` (R60). -/
abbrev commandWidth : Nat := 10

/-- A `CMD10` command word; bit 9 is the most significant (R60, R61). -/
abbrev CmdWord := BitVec 10

/-- The 8-bit unsigned value a frame sends, and the register `VAL` (R11, R62). -/
abbrev Byte := BitVec 8

/-- The 4-bit bit counter `CNT` (R15). -/
abbrev Count := BitVec 4

/-- The three output lines (R5 `NLINES`; 00_scope.md 5.1): Data (DS), ShiftClock (SH_CP), LatchClock (ST_CP). -/
inductive Line where
  | data
  | shcp
  | stcp
  deriving DecidableEq, Repr

/-- The source's `BitOrder`: `MostSignificantFirst`, `LeastSignificantFirst` (R12, R63: a two-valued enumeration). -/
inductive Order where
  | msf
  | lsf
  deriving DecidableEq, Repr

/-- A line level `L`, `H` or `U`; `U` is "not determined" (00_scope.md 5.1). -/
inductive Level where
  | low
  | high
  | u
  deriving DecidableEq, Repr

/-- A tri-bit `0`, `1` or `U`, the content of one stage of the attached register (00_scope.md 5.1).
`U` is never replaced by `0` or `1`. -/
inductive TriBit where
  | zero
  | one
  | u
  deriving DecidableEq, Repr

end Sys2Proof
end

