-- ==== Sys2Proof/Config.lean ====
section
/-! DEFINITION. What the spec leaves open as a parameter (00_scope.md R6) and the one free value of the
machine, the draw of 60_exceptions.md R143. None has a body, so nothing can be proved of its value.
`LINE_RESET_LEVEL`, whose default the spec does give, is an argument of the reset (`Machine.ResetChoice`). The three
wait counts and `T_WAIT`: DESIGN CHOICE, safe: notes/assumptions 11. -/

namespace Sys2Proof

/-- The free answers to "is this `setHigh` from level `U` a rising edge" (R122, R143): the n-th draw of a
run has answer `edgeDraw n` (DESIGN CHOICE, safe: notes/assumptions 2). -/
opaque Config.edgeDraw : Nat → Bool

/-- `W_CLK`: `busyWaitShort` calls between `C1` and `C0` (R6, R100). -/
opaque Config.wClk : Nat

/-- `W_SETTLE`: `busyWaitShort` calls before `S1` (R6, R102). -/
opaque Config.wSettle : Nat

/-- `W_HOLD`: `busyWaitShort` calls after `S1` (R6, R102). -/
opaque Config.wHold : Nat

/-- `T_WAIT`: how long one `busyWaitShort` lasts, a positive duration in a time unit of the platform's
(R6, R176). No step rule reads it. -/
opaque Config.tWait : PNat

/-- A permutation of the platform's pin numbers, of which `Config.pinMap` reads three places (DESIGN CHOICE, safe:
notes/assumptions 12). -/
opaque Config.pinPermutation : Equiv.Perm Nat

/-- `PINMAP` (R6, R21, R43, R164): the platform pin of each line. It is injective by construction and is
otherwise open: every injective map of three lines to pin numbers is the start of some permutation. No step
rule reads it. -/
def Config.pinMap : Line → Nat
  | .data => Config.pinPermutation 0
  | .shcp => Config.pinPermutation 1
  | .stcp => Config.pinPermutation 2

end Sys2Proof
end

