-- ==== Sys2Proof/Syntax.lean ====
section
/-! DEFINITION. The commands, one constructor per row of spec/opcode_table.json, and the abstract form of a
line of assembly (30_encoding.md R69). -/

namespace Sys2Proof

/-- A command (30_encoding.md R65; the source's "call"). -/
inductive Instr where
  /-- `INIT`, the source's `initialize()` (R80). -/
  | init
  /-- `WRB.MSF VALUE`, the source's `writeByte(value, MostSignificantFirst)` (R81). -/
  | wrbMsf (value : Byte)
  /-- `WRB.LSF VALUE`, the source's `writeByte(value, LeastSignificantFirst)` (R82). -/
  | wrbLsf (value : Byte)
  deriving DecidableEq, Repr

/-- One line of assembly before its literal's range is checked (R69): `imm8` as it was written. -/
inductive AsmLine where
  | init
  | wrb (order : Order) (imm : Nat)
  deriving DecidableEq, Repr

end Sys2Proof
end

