-- ==== Sys2Proof/WellFormed.lean ====
section
/-! DEFINITION. Well-formedness: of an instruction, of a line of assembly, and of a list of commands
(the order the host owes the engine). -/

namespace Sys2Proof

/-- Every command is well formed: the operand type is exactly the field, and all 256 values are legal
(30_encoding.md R62, R67). -/
def Instr.wf : Instr → Bool
  | .init => true
  | .wrbMsf value => decide (value.toNat ≤ 255)
  | .wrbLsf value => decide (value.toNat ≤ 255)

/-- `imm8` is an unsigned literal 0..255 (30_encoding.md R69). -/
def AsmLine.wf : AsmLine → Bool
  | .init => true
  | .wrb _ imm => decide (imm ≤ 255)

/-- The required order of commands (70_reset_and_hazards.md R165): no `WRB` before the first `INIT`.
`initialized` says that an `INIT` has already been given. -/
def respectsInitOrder (initialized : Bool) : List Instr → Bool
  | [] => true
  | .init :: _ => true
  | .wrbMsf _ :: _ => initialized
  | .wrbLsf _ :: _ => initialized

end Sys2Proof
end

