-- ==== Sys2Proof/Decode.lean ====
section
/-! DEFINITION. The decoder, total on all 1024 command words (30_encoding.md R65, R67), the opcode map as
data, and the encoder (R71). A word of another length is rejected by name (R60). -/

namespace Sys2Proof

/-- One row of the opcode map (R65): a word `w` selects the row when `w AND mask = pattern`. -/
structure OpcodeRow where
  mnemonic : String
  pattern : CmdWord
  mask : CmdWord
  deriving DecidableEq, Repr

/-- The complete opcode map (R65), in the table's order. -/
def opcodeMap : List OpcodeRow :=
  [⟨"INIT", 0x000#10, 0x200#10⟩, ⟨"WRB.MSF", 0x200#10, 0x300#10⟩, ⟨"WRB.LSF", 0x300#10, 0x300#10⟩]

/-- The word selects the row (R65). -/
def OpcodeRow.selects (r : OpcodeRow) (w : CmdWord) : Bool := decide (w &&& r.mask = r.pattern)

/-- The mnemonic of a command (R69). -/
def Instr.mnemonic : Instr → String
  | .init => "INIT"
  | .wrbMsf _ => "WRB.MSF"
  | .wrbLsf _ => "WRB.LSF"

/-- Field `OP`, `cmd[9]` (R61): false is `INIT`, true is `WRB`. -/
def opField (w : CmdWord) : Bool := w.getLsbD 9

/-- Field `ORD`, `cmd[8]` (R61, R63): 0 is `MSF`, 1 is `LSF`. -/
def ordField (w : CmdWord) : Order := if w.getLsbD 8 then .lsf else .msf

/-- Field `VALUE`, `cmd[7:0]`, used as it stands (R61, R62). -/
def valueField (w : CmdWord) : Byte := w.extractLsb' 0 8

/-- The decoder (R65, R67, R71). The nine low bits of an `INIT` word are ignored (R64). -/
def decode (w : CmdWord) : Instr :=
  if opField w then
    match ordField w with
    | .msf => .wrbMsf (valueField w)
    | .lsf => .wrbLsf (valueField w)
  else .init

/-- The encoder (R71); the canonical `INIT` word is `0x000` (R67). -/
def encode : Instr → CmdWord
  | .init => 0x000#10
  | .wrbMsf v => 0x200#10 + v.zeroExtend 10
  | .wrbLsf v => 0x300#10 + v.zeroExtend 10

/-- Why a number is no command word. -/
inductive DecodeReject where
  /-- It needs more than the ten bits of `CMD10`, the one length there is (R60). -/
  | widerThanTenBits
  deriving DecidableEq, Repr

/-- Decoding a number given as a word: by `decode` when it fits `CMD10`, and rejected by name otherwise. -/
def decodeNat (w : Nat) : Except DecodeReject Instr :=
  if w < 2 ^ commandWidth then .ok (decode (BitVec.ofNat 10 w)) else .error .widerThanTenBits

/-- The decoder as the host of the pipeline asks for it: the low `nbits` bits of `w` as a command word
(DESIGN CHOICE, safe: notes/assumptions 14). -/
def decodeTableWord (nbits w : Nat) : Option Instr :=
  match decodeNat (w % 2 ^ nbits) with
  | .ok i => some i
  | .error _ => none

end Sys2Proof
end

