-- ==== Sys2Proof/Machine/State.lean ====
section
/-! DEFINITION. The state of the machine (10_state.md R10) as plain data, the reasons a step can stop
(60_exceptions.md R140, R142), and reset (R27, R160). -/

namespace Sys2Proof.Machine

/-- The nine values of `PHASE` (R14). -/
inductive Phase where
  | idle
  | configure
  | latchLow
  | extractBit
  | driveData
  | pulseClockHigh
  | pulseClockLow
  | shiftValue
  | pulseLatch
  deriving DecidableEq, Repr

/-- One value per line: the form of `CFG` and `OUT` (R18, R19). -/
structure Lines (α : Type) where
  data : α
  shcp : α
  stcp : α
  deriving DecidableEq, Repr

/-- Eight tri-bit stages, index 0 first: the form of `T` and `Q` (R23, R24). -/
structure Stages where
  s0 : TriBit
  s1 : TriBit
  s2 : TriBit
  s3 : TriBit
  s4 : TriBit
  s5 : TriBit
  s6 : TriBit
  s7 : TriBit
  deriving DecidableEq, Repr

/-- The four line operations (42_line_operations.md R110 to R113). A trace event records one line
operation and nothing more (00_scope.md 5.3: `KD KC KS`, `D1 C1 S1`, `D0 C0 S0`, `W`), so a trace is a list
of these. -/
inductive LineOp where
  | configureAsOutput (n : Line)
  | setHigh (n : Line)
  | setLow (n : Line)
  | busyWaitShort
  deriving DecidableEq, Repr

/-- The state of the machine: complete by R10, and nothing else. The host's list of commands, the answers to draws, the
parameters and the trace are no part of it (R26). -/
structure MachineState where
  /-- `PHASE` (R14). -/
  phase : Phase
  /-- `CNT`, 4 bits (R15). -/
  cnt : Count
  /-- `VAL`, 8 bits, the remaining value (R11). -/
  val : Byte
  /-- `ORD`, 1 bit, the order of the frame in progress (R12). -/
  ord : Order
  /-- `BIT`, 1 bit, the extracted bit (R13). -/
  bit : Bool
  /-- `CFG`, one bit per line: configured as an output (R18). -/
  cfg : Lines Bool
  /-- `OUT`, one level per line: the level the engine drives (R19). -/
  out : Lines Level
  /-- `T`, the device's shift chain; stage 7 is the newest bit (R23). -/
  t : Stages
  /-- `Q`, the device's output stage (R24). -/
  q : Stages
  deriving DecidableEq, Repr

/-- A point of a run: the state of the machine, with what is outside it and has still to come. Every rule of the spec is a
function of `MachineState`, of the word on the port and of the answer to a draw (`MachineState.step`); the type the package
fixes for a step is a function of one argument, so the outside rides along with the machine (DESIGN CHOICE, safe:
notes/assumptions 1 and 2). -/
structure State extends MachineState where
  /-- Not machine state (R26): the words the host will offer, in order. The first is the word on `cmd[9:0]`
  with `cmd_valid = 1`; an empty list is `cmd_valid = 0` (R66, R92). -/
  offers : List CmdWord
  /-- Not machine state (R26): how many draws (R143) have been answered; the next answer is
  `Config.edgeDraw draws`. -/
  draws : Nat
  deriving DecidableEq, Repr

/-- Faults. The engine raises no exception and its table of causes is empty (60_exceptions.md R140), so no
constructor exists and no step can fault. -/
inductive Fault
  deriving DecidableEq, Repr

/-- Refusals: situations the spec gives no meaning (60_exceptions.md R142 names exactly the three last). -/
inductive Refusal where
  /-- Raised by an arm of `exec` for an instruction with no meaning yet; no arm raises it now. Safe. -/
  | notModelled (mnemonic : String)
  /-- Raised by the meanings of `WRB.MSF` and `WRB.LSF`: a `WRB` word is offered while `PHASE = Idle` and
  `CFG` is not (1,1,1) (R94, R142). Safe: the run stops where an implementation may do anything. -/
  | wrbBeforeInit
  /-- Raised by `hostMove` alone, for a writer other than the engine (R55, R142, R149, R171). Safe. -/
  | secondWriter
  /-- Raised by `hostMove` alone, for reset while `PHASE` is not `Idle` (R142, R162). Safe. -/
  | resetInFrame
  deriving DecidableEq, Repr

/-- The outcome of a step of the machine. -/
abbrev MachineResult := Host.Outcome MachineState Fault Refusal

/-- The outcome of a step from a point of a run. -/
abbrev Result := Host.Outcome State Fault Refusal

/-- What the spec leaves open about reset (R27): the parameter `LINE_RESET_LEVEL` (R6, R163) and the values
of the four registers marked "unspecified". -/
structure ResetChoice where
  lineResetLevel : Lines Level
  cnt : Count
  val : Byte
  ord : Order
  bit : Bool
  deriving DecidableEq, Repr

/-- `LINE_RESET_LEVEL` at its default `(U, U, U)` (R6), and the model's named value zero for each
unspecified register (DESIGN CHOICE, unsafe: notes/assumptions 3; the levels: DEDUCED, safe: notes/assumptions 8). -/
def ResetChoice.default : ResetChoice :=
  { lineResetLevel := ⟨.u, .u, .u⟩, cnt := 0#4, val := 0#8, ord := .msf, bit := false }

/-- Eight stages of which no rule has given any a value. -/
def Stages.unknown : Stages := ⟨.u, .u, .u, .u, .u, .u, .u, .u⟩

/-- The machine directly after reset, for any choice of what R27 leaves open (R27, R160, R161). -/
def MachineState.resetAt (c : ResetChoice) : MachineState :=
  { phase := .idle
    cnt := c.cnt
    val := c.val
    ord := c.ord
    bit := c.bit
    cfg := ⟨false, false, false⟩
    out := c.lineResetLevel
    t := Stages.unknown
    q := Stages.unknown }

/-- The start of a run (R160): the machine after reset, nothing offered and no draw answered. -/
def State.resetAt (c : ResetChoice) : State :=
  { toMachineState := MachineState.resetAt c, offers := [], draws := 0 }

/-- The machine right after reset. -/
def State.reset : State := State.resetAt ResetChoice.default

end Sys2Proof.Machine
end

