-- ==== Sys2Proof/Machine/Operands.lean ====
section
/-! DEFINITION. The operand forms: bit orders, extraction and shifting of `VAL` (40_commands.md R86), the bits
a frame sends (20_memory.md R44, R45), and access to the lines and stages by name and index. -/

namespace Sys2Proof.Machine

/-- The entry of a per-line register for line `n`: `CFG[n]`, `OUT[n]`. -/
def Lines.get {α : Type} (l : Lines α) : Line → α
  | .data => l.data
  | .shcp => l.shcp
  | .stcp => l.stcp

/-- Writing the entry for line `n` alone (20_memory.md R49 (c)). -/
def Lines.set {α : Type} (l : Lines α) (n : Line) (a : α) : Lines α :=
  match n with
  | .data => { l with data := a }
  | .shcp => { l with shcp := a }
  | .stcp => { l with stcp := a }

/-- `CFG = (1,1,1)` (R94). -/
def allOutputs (c : Lines Bool) : Bool := c.data && c.shcp && c.stcp

/-- Stage `k`: `T[k]`, `Q[k]`. -/
def Stages.get (r : Stages) : Fin 8 → TriBit
  | 0 => r.s0
  | 1 => r.s1
  | 2 => r.s2
  | 3 => r.s3
  | 4 => r.s4
  | 5 => r.s5
  | 6 => r.s6
  | 7 => r.s7

/-- The eight stages with content `f k` in stage `k`. -/
def Stages.ofFn (f : Fin 8 → TriBit) : Stages := ⟨f 0, f 1, f 2, f 3, f 4, f 5, f 6, f 7⟩

/-- One shift of the chain (43_attached_register.md R123): `T[k] <- T[k+1]` for k in 0..6, all at once, and
`T[7] <- b`; the old `T[0]` is discarded. -/
def Stages.shiftIn (r : Stages) (b : TriBit) : Stages := ⟨r.s1, r.s2, r.s3, r.s4, r.s5, r.s6, r.s7, b⟩

/-- `lvl(b)`: 1 is `H`, 0 is `L` (00_scope.md 5.1). -/
def lvl (b : Bool) : Level := if b then .high else .low

/-- `bit3(l)`: `H` is 1, `L` is 0, `U` is `U` (00_scope.md 5.1). -/
def bit3 : Level → TriBit
  | .low => .zero
  | .high => .one
  | .u => .u

/-- A bit as a tri-bit. -/
def tri (b : Bool) : TriBit := if b then .one else .zero

/-- The bit `ExtractBit` takes: `VAL[7]` under `MSF`, `VAL[0]` under `LSF` (R86, R97). -/
def extractedBit : Order → Byte → Bool
  | .msf, v => v.getLsbD 7
  | .lsf, v => v.getLsbD 0

/-- The shift `ShiftValue` makes: `VAL[6:0] ++ 0` under `MSF` (top bit discarded), `0 ++ VAL[7:1]` under
`LSF` (logical) (R86, R101). -/
def shiftedValue : Order → Byte → Byte
  | .msf, v => v.extractLsb' 0 7 ++ 0#1
  | .lsf, v => 0#1 ++ v.extractLsb' 1 7

/-- The bit sent as the (k+1)-th of a frame: `VALUE[7-k]` under `MSF` (R44), `VALUE[k]` under `LSF` (R45). -/
def sentBit : Order → Byte → Fin 8 → Bool
  | .msf, v, k => v.getLsbD (7 - k.val)
  | .lsf, v, k => v.getLsbD k.val

/-- `reverseBits(v)`: bit i of the result is `v[7-i]` (00_scope.md 5.1). A function of the test law R87, no
operation of the engine (R70). -/
def reverseBits (v : Byte) : Byte :=
  BitVec.ofBool (v.getLsbD 0) ++ BitVec.ofBool (v.getLsbD 1) ++ BitVec.ofBool (v.getLsbD 2) ++
    BitVec.ofBool (v.getLsbD 3) ++ BitVec.ofBool (v.getLsbD 4) ++ BitVec.ofBool (v.getLsbD 5) ++
    BitVec.ofBool (v.getLsbD 6) ++ BitVec.ofBool (v.getLsbD 7)

end Sys2Proof.Machine
end

