-- ==== Sys2Proof/Machine/Flags.lean ====
section
/-! DEFINITION. Flags and status. The engine has no flag register and no condition code (10_state.md R17);
its one status signal, `BUSY`, and its output ports (30_encoding.md R68) are functions of the state. -/

namespace Sys2Proof.Machine

/-- `BUSY = (PHASE != Idle)` (R17). -/
def MachineState.busy (m : MachineState) : Bool := decide (m.phase ≠ .idle)

/-- `cmd_ready = (PHASE = Idle)` (R66). -/
def MachineState.cmdReady (m : MachineState) : Bool := decide (m.phase = .idle)

/-- The level the attached register sees on line `n`: `OUT[n]` if `CFG[n] = 1`, and `U` if not (R20). -/
def MachineState.lineLevel (m : MachineState) (n : Line) : Level := if m.cfg.get n then m.out.get n else .u

/-- The engine's output ports (R68). `lines` holds `data`, `shcp`, `stcp`; `outputEnable` holds
`oe_data`, `oe_shcp`, `oe_stcp`. -/
structure Ports where
  cmdReady : Bool
  busy : Bool
  lines : Lines Level
  outputEnable : Lines Bool
  deriving DecidableEq, Repr

/-- The values on the output ports. There is no other output and no input from the device (R68, R42). -/
def MachineState.ports (m : MachineState) : Ports :=
  { cmdReady := m.cmdReady, busy := m.busy, lines := m.out, outputEnable := m.cfg }

/-- The device output space: what the outside sees on `Q[0]` to `Q[7]` (R41, R126). -/
def MachineState.deviceOutputs (m : MachineState) : Stages := m.q

end Sys2Proof.Machine
end

