-- ==== Sys2Proof/Machine/Ops.lean ====
section
/-! DEFINITION. The named operations. Over the machine: the attached register's reactions (43_attached_register.md)
and the four line operations (42_line_operations.md), the answer to a draw an argument. Over a point of a run: one write
per register, and the same operations with the next free answer supplied.

There is no memory (20_memory.md R40: a model must not add one; DEDUCED, safe: notes/assumptions 15) and no read path
(R42, R114), so there is no memory operation here. There is no exception, no trap entry and no return from one (60_exceptions.md R140,
R145, R147), so there is no shared operation that takes an exception: the only stop is a refusal (R142). -/

namespace Sys2Proof.Machine

/-! ### The attached register -/

/-- A `setHigh(n)` of a clock line asks a draw: the level before it is `U` (R122, R143). -/
def MachineState.asksDraw (n : Line) (m : MachineState) : Bool := decide (m.lineLevel n = .u)

/-- Whether a `setHigh(n)` of a clock line is a rising edge (R122): from `L` it is, from `H` it is not, and
from `U` the answer to the draw says. A line that is no output shows `U` (R20), so a write of one, which no run makes
(R116), asks a draw too (DESIGN CHOICE, safe: notes/assumptions 9). -/
def MachineState.risingEdge (n : Line) (answer : Bool) (m : MachineState) : Bool :=
  match m.lineLevel n with
  | .low => true
  | .high => false
  | .u => answer

/-- The chain after a rising edge on `SHCP`: one shift, sampling Data (R123, R129). -/
def MachineState.shiftedChain (m : MachineState) : Stages := m.t.shiftIn (bit3 (m.lineLevel .data))

/-- The device's reaction to a `setHigh(SHCP)`: a shift if the write is a rising edge; `Q` unchanged (R123). -/
def MachineState.reactToShiftClock (answer : Bool) (m : MachineState) : MachineState :=
  { m with t := if m.risingEdge .shcp answer then m.shiftedChain else m.t }

/-- The device's reaction to a `setHigh(STCP)`: if the write is a rising edge, `Q[k] <- T[k]` for all k at once;
`T` unchanged (R124). -/
def MachineState.reactToLatchClock (answer : Bool) (m : MachineState) : MachineState :=
  { m with q := if m.risingEdge .stcp answer then m.t else m.q }

/-! ### The line operations -/

/-- `configureAsOutput(n)` (R110). -/
def MachineState.configureAsOutput (n : Line) (m : MachineState) : MachineState := { m with cfg := m.cfg.set n true }

/-- `setHigh(n)` (R111): `OUT[n] <- H`, and the device reacts to the write by the levels before it. A rising
edge is defined for `SHCP` and `STCP` only (R122); a write to `DATA` has no effect on the device (R125). -/
def MachineState.setHigh (n : Line) (answer : Bool) (m : MachineState) : MachineState :=
  match n with
  | .data => { m with out := m.out.set .data .high }
  | .shcp => { m.reactToShiftClock answer with out := m.out.set .shcp .high }
  | .stcp => { m.reactToLatchClock answer with out := m.out.set .stcp .high }

/-- `setLow(n)` (R112): never a rising edge (R122), so the device does not react. -/
def MachineState.setLow (n : Line) (m : MachineState) : MachineState := { m with out := m.out.set n .low }

/-- `busyWaitShort()` (R113): changes no state. -/
def MachineState.busyWaitShort (m : MachineState) : MachineState := m

/-- `drive(DATA, lvl(b))`: `setHigh` or `setLow` (00_scope.md 5.2). Data is no clock line, so no draw is asked (R122)
and the answer given is not read. -/
def MachineState.driveData (b : Bool) (m : MachineState) : MachineState :=
  if b then m.setHigh .data false else m.setLow .data

/-! ### One write per register -/

/-- `PHASE <- p`. -/
def State.setPhase (s : State) (p : Phase) : State := { s with phase := p }
/-- `CNT <- c`. -/
def State.setCnt (s : State) (c : Count) : State := { s with cnt := c }
/-- `VAL <- v`. -/
def State.setVal (s : State) (v : Byte) : State := { s with val := v }
/-- `ORD <- o`. -/
def State.setOrd (s : State) (o : Order) : State := { s with ord := o }
/-- `BIT <- b`. -/
def State.setBit (s : State) (b : Bool) : State := { s with bit := b }
/-- Writing `CFG`. -/
def State.setCfg (s : State) (c : Lines Bool) : State := { s with cfg := c }
/-- Writing `OUT`. -/
def State.setOut (s : State) (l : Lines Level) : State := { s with out := l }
/-- Writing the chain `T`. -/
def State.setT (s : State) (r : Stages) : State := { s with t := r }
/-- Writing the output stage `Q`. -/
def State.setQ (s : State) (r : Stages) : State := { s with q := r }
/-- Replacing what the host will offer. -/
def State.setOffers (s : State) (ws : List CmdWord) : State := { s with offers := ws }
/-- Replacing the count of draws answered. -/
def State.setDraws (s : State) (n : Nat) : State := { s with draws := n }

/-- Replacing the state of the machine, the outside as it is. -/
def State.withMachine (s : State) (m : MachineState) : State := { s with toMachineState := m }

/-- An outcome of the machine as an outcome at a point of a run: the outside is as it is. -/
def State.lift (s : State) : MachineResult → Result
  | .next m => .next (s.withMachine m)
  | .fault r => .fault r
  | .refused r => .refused r

/-! ### The line operations at a point of a run -/

/-- Whether a `setHigh(n)` of a clock line is a rising edge, with the answer the next draw has (R122; DESIGN CHOICE, safe:
notes/assumptions 2). -/
def risingEdge (n : Line) (s : State) : Bool := s.toMachineState.risingEdge n (Config.edgeDraw s.draws)

/-- The count of draws after a `setHigh(n)` of a clock line: a `setHigh` from `U` asks one (R122, R143). -/
def drawsAfter (n : Line) (s : State) : Nat := if s.lineLevel n = .u then s.draws + 1 else s.draws

/-- `configureAsOutput(n)` (R110). -/
def configureAsOutput (n : Line) (s : State) : State := s.withMachine (s.toMachineState.configureAsOutput n)

/-- `setHigh(n)` (R111), with the next answer; the draw is counted if the line is a clock line. -/
def setHigh (n : Line) (s : State) : State :=
  let s' := s.withMachine (s.toMachineState.setHigh n (Config.edgeDraw s.draws))
  match n with
  | .data => s'
  | .shcp => s'.setDraws (drawsAfter .shcp s)
  | .stcp => s'.setDraws (drawsAfter .stcp s)

/-- `setLow(n)` (R112). -/
def setLow (n : Line) (s : State) : State := s.withMachine (s.toMachineState.setLow n)

/-- `busyWaitShort()` (R113). -/
def busyWaitShort (s : State) : State := s.withMachine s.toMachineState.busyWaitShort

/-- The effect of one line operation. -/
def runLineOp : LineOp → State → State
  | .configureAsOutput n, s => configureAsOutput n s
  | .setHigh n, s => setHigh n s
  | .setLow n, s => setLow n s
  | .busyWaitShort, s => busyWaitShort s

/-- The effect of a sequence of line operations, first to last (20_memory.md R51). -/
def runLineOps : List LineOp → State → State
  | [], s => s
  | op :: ops, s => runLineOps ops (runLineOp op s)

end Sys2Proof.Machine
end

