-- ==== Sys2Proof/Machine/Initialize.lean ====
section
/-! DEFINITION. The meaning of `INIT` (40_commands.md R80; 41_sequencer.md R93): the acceptance step. The
`Configure` step that follows (R95) is in Machine/Sequencer.lean. -/

namespace Sys2Proof.Machine

/-- `INIT` offered to the engine. At `Idle` it is accepted, with no precondition (R80, R93); while the engine
is busy the port is not looked at and nothing changes (R66; DEDUCED, safe: notes/assumptions 5). -/
def MachineState.acceptInit (m : MachineState) : MachineResult :=
  if m.phase = .idle then .next { m with phase := .configure } else .next m

/-- `INIT` (R80) at a point of a run. -/
def execInit (s : State) : Result := s.lift s.toMachineState.acceptInit

end Sys2Proof.Machine
end

