-- ==== Sys2Proof/Machine/WriteByte.lean ====
section
/-! DEFINITION. The meanings of `WRB.MSF` and `WRB.LSF` (40_commands.md R81, R82; 41_sequencer.md R94): the
acceptance step. The 42 steps of the frame that follow are in Machine/Sequencer.lean (DEDUCED, safe:
notes/assumptions 13). -/

namespace Sys2Proof.Machine

/-- Capturing the operands of a `WRB` at acceptance (R94, R22):
`VAL <- cmd[7:0]; ORD <- cmd[8]; CNT <- 0; PHASE <- LatchLow`. -/
def MachineState.captureFrame (order : Order) (value : Byte) (m : MachineState) : MachineState :=
  { m with val := value, ord := order, cnt := 0#4, phase := .latchLow }

/-- A `WRB` offered to the engine. At `Idle` it is accepted if `CFG = (1,1,1)` and refused if not
(R94, R142); while the engine is busy the port is not looked at and nothing changes (R66; DEDUCED, safe:
notes/assumptions 5). -/
def MachineState.acceptFrame (order : Order) (value : Byte) (m : MachineState) : MachineResult :=
  if m.phase = .idle then
    if allOutputs m.cfg then .next (m.captureFrame order value) else .refused .wrbBeforeInit
  else .next m

/-- The capture at a point of a run. -/
def captureFrame (order : Order) (value : Byte) (s : State) : State :=
  s.withMachine (s.toMachineState.captureFrame order value)

/-- A `WRB` offered at a point of a run. -/
def acceptFrame (order : Order) (value : Byte) (s : State) : Result :=
  s.lift (s.toMachineState.acceptFrame order value)

/-- `WRB.MSF VALUE` (R81). -/
def execWrbMsf (value : Byte) (s : State) : Result := acceptFrame .msf value s

/-- `WRB.LSF VALUE` (R82). -/
def execWrbLsf (value : Byte) (s : State) : Result := acceptFrame .lsf value s

end Sys2Proof.Machine
end

