-- ==== Sys2Proof/Machine/Dispatch.lean ====
section
/-! DEFINITION. The dispatch: one arm per constructor of `Instr`. -/

namespace Sys2Proof.Machine

def exec (i : Instr) (s : State) : Host.Outcome State Fault Refusal :=
  match i with
  | .init => Sys2Proof.Machine.execInit s
  | .wrbMsf value => Sys2Proof.Machine.execWrbMsf value s
  | .wrbLsf value => Sys2Proof.Machine.execWrbLsf value s

end Sys2Proof.Machine
end

