-- ==== Sys2Proof/Machine/HostPort.lean ====
section
/-! DEFINITION. The command port and the host's moves (30_encoding.md R66; 60_exceptions.md R142, R149;
70_reset_and_hazards.md R160 to R162). -/

namespace Sys2Proof.Machine

/-- The word on `cmd[9:0]` when `cmd_valid = 1`; none when `cmd_valid = 0` (R66, R92). -/
def offeredWord (s : State) : Option CmdWord := s.offers.head?

/-- The offered word has been taken; the host presents what it has next. -/
def takeOffer (s : State) : State := s.setOffers s.offers.tail

/-- The host adds a word behind those it is still to offer, and holds each until it is accepted (R66, R146). -/
def offerWord (w : CmdWord) (s : State) : State := s.setOffers (s.offers ++ [w])

/-- What the outside can do to the machine (R149). -/
inductive HostMove where
  /-- Offer a command word: any of the 1024, at any time. -/
  | offer (w : CmdWord)
  /-- Assert `rst`; the argument is what reset leaves open (R27). -/
  | assertReset (c : ResetChoice)
  /-- Anything other than the engine changes `OUT`, a line level, `T` or `Q` (R142). -/
  | foreignWrite
  deriving DecidableEq, Repr

/-- The outcome of a host's move. A reset while `Idle` starts a new run with `T` and `Q` again `U` (R162);
the host's list and the count of draws, no part of the machine, go on (DESIGN CHOICE, safe: notes/assumptions 7). The
refusals of `foreignWrite` and of a reset in a frame are raised here and by no step (DEDUCED, safe: notes/assumptions 18). -/
def hostMove (m : HostMove) (s : State) : Result :=
  match m with
  | .offer w => .next (offerWord w s)
  | .assertReset c =>
    if s.phase = .idle then .next (s.withMachine (MachineState.resetAt c))
    else .refused .resetInFrame
  | .foreignWrite => .refused .secondWriter

/-- The end of a run (00_scope.md R8): nothing more to offer, and `PHASE = Idle`. -/
def endOfRun (s : State) : Bool := decide (s.offers = []) && s.cmdReady

end Sys2Proof.Machine
end

