-- ==== Sys2Proof/Machine/Sequencer.lean ====
section
/-! DEFINITION. The step rules of the phases other than `Idle` (41_sequencer.md R95 to R102), one definition
a phase. The waits of R100 and R102 change no state (R113) and appear in the trace alone (Machine/Recorder.lean). One phase
a step: DEDUCED, safe: notes/assumptions 13. -/

namespace Sys2Proof.Machine

/-- Phase `Configure` (R95): the three lines become outputs, and `INIT` returns. -/
def MachineState.stepConfigure (m : MachineState) : MachineState :=
  { ((m.configureAsOutput .data).configureAsOutput .shcp).configureAsOutput .stcp with phase := .idle }

/-- Phase `LatchLow` (R96). -/
def MachineState.stepLatchLow (m : MachineState) : MachineState := { m.setLow .stcp with phase := .extractBit }

/-- Phase `ExtractBit` (R97). -/
def MachineState.stepExtractBit (m : MachineState) : MachineState :=
  { m with bit := extractedBit m.ord m.val, phase := .driveData }

/-- Phase `DriveData` (R98): unconditional, whatever level Data holds (R115). -/
def MachineState.stepDriveData (m : MachineState) : MachineState := { m.driveData m.bit with phase := .pulseClockHigh }

/-- Phase `PulseClockHigh` (R99). -/
def MachineState.stepPulseClockHigh (answer : Bool) (m : MachineState) : MachineState :=
  { m.setHigh .shcp answer with phase := .pulseClockLow }

/-- Phase `PulseClockLow` (R100). -/
def MachineState.stepPulseClockLow (m : MachineState) : MachineState := { m.setLow .shcp with phase := .shiftValue }

/-- The phase after `ShiftValue`, from the value of `CNT` before the step (R101, R16). -/
def afterShiftValue (cnt : Count) : Phase := if cnt + 1#4 = 8#4 then .pulseLatch else .extractBit

/-- Phase `ShiftValue` (R101): all three writes use the values before the step. From a `CNT` of 8 to 15, which no run
has here (R104), the count goes on in its 4 bits (DESIGN CHOICE, safe: notes/assumptions 10). -/
def MachineState.stepShiftValue (m : MachineState) : MachineState :=
  { m with val := shiftedValue m.ord m.val, cnt := m.cnt + 1#4, phase := afterShiftValue m.cnt }

/-- Phase `PulseLatch` (R102): LatchClock is left high, and `WRB` returns. -/
def MachineState.stepPulseLatch (answer : Bool) (m : MachineState) : MachineState :=
  { m.setHigh .stcp answer with phase := .idle }

/-- The one step of the phase the sequencer is in (R90); `Idle` has none of its own (R92). -/
def MachineState.phaseStep (answer : Bool) (m : MachineState) : MachineState :=
  match m.phase with
  | .idle => m
  | .configure => m.stepConfigure
  | .latchLow => m.stepLatchLow
  | .extractBit => m.stepExtractBit
  | .driveData => m.stepDriveData
  | .pulseClockHigh => m.stepPulseClockHigh answer
  | .pulseClockLow => m.stepPulseClockLow
  | .shiftValue => m.stepShiftValue
  | .pulseLatch => m.stepPulseLatch answer

/-- The next step asks a draw: it sets a clock line high from level `U` (R122, R143). -/
def MachineState.stepAsksDraw (m : MachineState) : Bool :=
  match m.phase with
  | .pulseClockHigh => m.asksDraw .shcp
  | .pulseLatch => m.asksDraw .stcp
  | .idle | .configure | .latchLow | .extractBit | .driveData | .pulseClockLow | .shiftValue => false

/-- The step of the phase at a point of a run, with the next answer; a draw that is asked is counted. -/
def phaseStep (s : State) : State :=
  (s.withMachine (s.toMachineState.phaseStep (Config.edgeDraw s.draws))).setDraws
    (if s.stepAsksDraw then s.draws + 1 else s.draws)

end Sys2Proof.Machine
end

