-- ==== Sys2Proof/Machine/MachineStep.lean ====
section
/-! DEFINITION. One step of the machine as the spec has it: from the state of R10 alone, with the port and the answer to
a draw as input (10_state.md R22, R26; 41_sequencer.md R90). Machine/Step.lean is this step with its input taken from a
point of a run; that it is this step is a statement. -/

namespace Sys2Proof.Machine

/-- What a step takes from outside the machine: the command port, and the answer should the step ask a draw. Neither is
state (R22, R26). -/
structure MachineInput where
  /-- `cmd[9:0]` when `cmd_valid = 1`; none when `cmd_valid = 0` (R66, R68). -/
  cmd : Option CmdWord
  /-- The answer to "is this `setHigh` from level `U` a rising edge" (R143). -/
  answer : Bool
  deriving DecidableEq, Repr

/-- A command offered to the machine (R93, R94, R66). -/
def MachineState.accept (i : Instr) (m : MachineState) : MachineResult :=
  match i with
  | .init => m.acceptInit
  | .wrbMsf value => m.acceptFrame .msf value
  | .wrbLsf value => m.acceptFrame .lsf value

/-- One step of the machine (R90, R93 to R102). At `Idle` with `cmd_valid = 0` the state does not change (R92; DESIGN CHOICE,
safe: notes/assumptions 4). -/
def MachineState.step (input : MachineInput) (m : MachineState) : MachineResult :=
  if m.phase = .idle then
    match input.cmd with
    | none => .next m
    | some w => m.accept (decode w)
  else .next (m.phaseStep input.answer)

/-- A run of the machine: one step for each input, first to last, stopping at the first refusal (R142). The inputs come from
outside, whatever they are. -/
def MachineState.run : List MachineInput → MachineState → MachineResult
  | [], m => .next m
  | input :: inputs, m =>
    match m.step input with
    | .next m' => m'.run inputs
    | .fault r => .fault r
    | .refused r => .refused r

end Sys2Proof.Machine
end

