-- ==== Sys2Proof/Machine/Step.lean ====
section
/-! DEFINITION. One step of the engine (41_sequencer.md R90) at a point of a run: the step of the machine
(`MachineState.step`, Machine/MachineStep.lean) on the word offered and the next answer, as
`Obligations.StepIsTheMachinesStep` states. -/

namespace Sys2Proof.Machine

/-- One step. At `Idle` the offered word is taken, decoded and run (R93, R94), and with nothing offered the
state does not change (R92; DESIGN CHOICE, safe: notes/assumptions 4); in any other phase the step is that of the phase and the port is not looked at
(R66). -/
def step (s : State) : Host.Outcome State Fault Refusal :=
  if s.phase = .idle then
    match offeredWord s with
    | none => .next s
    | some w => exec (decode w) (takeOffer s)
  else .next (phaseStep s)

/-- `s` with the engine `Idle` and the low `nbits` bits of `w` offered first, so that the very next step
accepts that word. A word has ten bits (R60). (DESIGN CHOICE, safe: notes/assumptions 6 and 14.) -/
def State.withFetchWord (s : State) (nbits w : Nat) : State :=
  (s.setPhase .idle).setOffers (BitVec.ofNat 10 (w % 2 ^ nbits) :: s.offers)

end Sys2Proof.Machine
end

