-- ==== Sys2Proof/Machine/Assembler.lean ====
section
/-! DEFINITION. The assembler syntax (30_encoding.md R69, R70): mnemonics `INIT`, `WRB.MSF imm8`,
`WRB.LSF imm8`, one command per line; `imm8` in decimal, `0x` hexadecimal or `0b` binary. There are no
pseudo-instructions, labels, registers or directives. Spacing and the case of digits: DESIGN CHOICE, safe:
notes/assumptions 17. -/

namespace Sys2Proof.Machine

/-- The value of a digit in a base of at most 16. -/
def digitValue (base : Nat) (c : Char) : Option Nat :=
  let n := c.toNat
  let d :=
    if 48 ≤ n ∧ n ≤ 57 then n - 48
    else if 97 ≤ n ∧ n ≤ 102 then n - 87
    else if 65 ≤ n ∧ n ≤ 70 then n - 55
    else 16
  if d < base then some d else none

/-- Digits read most significant first, onto `acc`. -/
def digitsOnto (base acc : Nat) : List Char → Option Nat
  | [] => some acc
  | c :: cs =>
    match digitValue base c with
    | some d => digitsOnto base (acc * base + d) cs
    | none => none

/-- A literal has at least one digit. -/
def digits (base : Nat) : List Char → Option Nat
  | [] => none
  | cs => digitsOnto base 0 cs

/-- An unsigned literal in decimal, `0x` hexadecimal or `0b` binary (R69). -/
def literal : List Char → Option Nat
  | '0' :: 'x' :: cs => digits 16 cs
  | '0' :: 'b' :: cs => digits 2 cs
  | cs => digits 10 cs

/-- Reading one line of assembly (R69). -/
def parseLine (line : String) : Option AsmLine :=
  match line.toList with
  | ['I', 'N', 'I', 'T'] => some .init
  | 'W' :: 'R' :: 'B' :: '.' :: 'M' :: 'S' :: 'F' :: ' ' :: cs => (literal cs).map (AsmLine.wrb .msf)
  | 'W' :: 'R' :: 'B' :: '.' :: 'L' :: 'S' :: 'F' :: ' ' :: cs => (literal cs).map (AsmLine.wrb .lsf)
  | _ => none

/-- The command of a line of assembly; a literal outside 0..255 is refused. -/
def assembleLine (l : AsmLine) : Option Instr :=
  if l.wf then
    match l with
    | .init => some .init
    | .wrb .msf imm => some (.wrbMsf (BitVec.ofNat 8 imm))
    | .wrb .lsf imm => some (.wrbLsf (BitVec.ofNat 8 imm))
  else none

/-- The word of one line of assembly text (R69). -/
def assembleText (line : String) : Option CmdWord :=
  match parseLine line with
  | some l => (assembleLine l).map encode
  | none => none

/-- A program: one command per line, offered to the engine in order (R69). -/
def assembleProgram : List String → Option (List CmdWord)
  | [] => some []
  | line :: lines =>
    match assembleText line, assembleProgram lines with
    | some w, some ws => some (w :: ws)
    | _, _ => none

end Sys2Proof.Machine
end

