-- ==== Sys2Proof/Machine/Recorder.lean ====
section
/-! DEFINITION. The recorder (60_exceptions.md R152) and the command as a whole. A trace is a function of the
state a run starts in and of the number of steps; it is no part of the state (10_state.md R26). -/

namespace Sys2Proof.Machine

/-- `busyWaitShort` recorded `n` times. -/
def waits (n : Nat) : List LineOp := List.replicate n .busyWaitShort

/-- The write event of `drive(n, lvl(b))`. -/
def driveEvent (n : Line) (b : Bool) : LineOp := if b then .setHigh n else .setLow n

/-- The events the next step emits (41_sequencer.md R93 to R102), with the waits where R103 places them.
The acceptance step emits none (R93, R94). -/
def stepEvents (s : State) : List LineOp :=
  match s.phase with
  | .idle => []
  | .configure => [.configureAsOutput .data, .configureAsOutput .shcp, .configureAsOutput .stcp]
  | .latchLow => [.setLow .stcp]
  | .extractBit => []
  | .driveData => [driveEvent .data s.bit]
  | .pulseClockHigh => [.setHigh .shcp]
  | .pulseClockLow => waits Config.wClk ++ [.setLow .shcp]
  | .shiftValue => []
  | .pulseLatch => waits Config.wSettle ++ [.setHigh .stcp] ++ waits Config.wHold

/-- `k` steps of the machine, stopping at the first refusal (R142): the host's own notion of a run. -/
def runSteps (k : Nat) (s : State) : Result := Sys2Proof.core.run k s

/-- The trace of the next `k` steps (R152). A run that stops emits nothing more. -/
def trace : Nat → State → List LineOp
  | 0, _ => []
  | k + 1, s =>
    stepEvents s ++
      match step s with
      | .next s' => trace k s'
      | .fault _ => []
      | .refused _ => []

/-- A write event: a `setHigh` or a `setLow` (00_scope.md 5.3). -/
def LineOp.isWrite : LineOp → Bool
  | .setHigh _ => true
  | .setLow _ => true
  | .configureAsOutput _ => false
  | .busyWaitShort => false

/-- The next step makes a rising edge on clock line `n` (R122): it records a `setHigh(n)` from level `L`, or
from `U` with the draw answered so. -/
def stepEdge (n : Line) (s : State) : Bool := decide (.setHigh n ∈ stepEvents s) && risingEdge n s

/-- How many of the next `k` steps satisfy `p`, up to a refusal. -/
def countSteps (p : State → Bool) : Nat → State → Nat
  | 0, _ => 0
  | k + 1, s =>
    (if p s then 1 else 0) +
      match step s with
      | .next s' => countSteps p k s'
      | .fault _ => 0
      | .refused _ => 0

/-- The rising edges on clock line `n` in the next `k` steps (R88). -/
def risingEdges (n : Line) (k : Nat) (s : State) : Nat := countSteps (stepEdge n) k s

/-- The next step changes the level of line `n` (00_scope.md 5.3 "level change"): the new level differs from the old. A write
from level `U`, of which 95_test_vectors.md V12 says that the change is unknown, always counts as one (DESIGN CHOICE, unsafe:
notes/assumptions 19). -/
def stepLevelChange (n : Line) (s : State) : Bool :=
  match step s with
  | .next s' => decide (s'.out.get n ≠ s.out.get n)
  | .fault _ => false
  | .refused _ => false

/-- The level changes of line `n` in the next `k` steps (R88), a write from `U` among them (notes/assumptions 19): an upper
bound of the changes that happen on the line. -/
def levelChanges (n : Line) (k : Nat) (s : State) : Nat := countSteps (stepLevelChange n) k s

/-- An event as the spec writes it (00_scope.md 5.3). -/
def LineOp.code : LineOp → String
  | .configureAsOutput .data => "KD"
  | .configureAsOutput .shcp => "KC"
  | .configureAsOutput .stcp => "KS"
  | .setHigh .data => "D1"
  | .setHigh .shcp => "C1"
  | .setHigh .stcp => "S1"
  | .setLow .data => "D0"
  | .setLow .shcp => "C0"
  | .setLow .stcp => "S0"
  | .busyWaitShort => "W"

/-- The time the waits of a trace take, in the unit of `Config.tWait`; the elapsed time is at least this
(70_reset_and_hazards.md R176). -/
def waitTime (events : List LineOp) : Nat := events.count .busyWaitShort * Config.tWait.val

/-- Steps from the acceptance of a command to its return, the acceptance included (R104). -/
def commandSteps : Instr → Nat
  | .init => 2
  | .wrbMsf _ => 43
  | .wrbLsf _ => 43

/-- A command from acceptance to return: the acceptance, then the steps that R104 counts. -/
def perform (i : Instr) (s : State) : Result :=
  match exec i s with
  | .next s' => runSteps (commandSteps i - 1) s'
  | .fault r => .fault r
  | .refused r => .refused r

/-- The events of a command from acceptance to return. -/
def commandTrace (i : Instr) (s : State) : List LineOp :=
  match exec i s with
  | .next s' => trace (commandSteps i - 1) s'
  | .fault _ => []
  | .refused _ => []

/-- What a run is observed through (00_scope.md R9; 92_eei_decisions.md D23): the trace, the lines and the
device. -/
structure Observation where
  events : List LineOp
  cfg : Lines Bool
  out : Lines Level
  t : Stages
  q : Stages
  deriving DecidableEq, Repr

/-- The observation of `k` steps from `s`; none if the run is refused on the way (R142). -/
def observe (k : Nat) (s : State) : Option Observation :=
  match runSteps k s with
  | .next s' => some { events := trace k s, cfg := s'.cfg, out := s'.out, t := s'.t, q := s'.q }
  | .fault _ => none
  | .refused _ => none

end Sys2Proof.Machine
end

