-- ==== Sys2Proof/Machine/Frame.lean ====
section
/-! DEFINITION. Each command as 40_commands.md describes it as a whole (R80 to R85), without the sequencer. The
spec gives the same behaviour twice and the step rules govern; that the two agree is a statement. -/

namespace Sys2Proof.Machine

/-- The `WRB` command of an order and a value. -/
def writeByte (o : Order) (v : Byte) : Instr :=
  match o with
  | .msf => .wrbMsf v
  | .lsf => .wrbLsf v

/-- The state in which `INIT` returns (R80): `CFG = (1,1,1)`, and nothing else changed. -/
def initReturn (s : State) : State := { s with cfg := ⟨true, true, true⟩ }

/-- The events of one bit of a frame (R83 step 2): Data, `C1`, the waits, `C0`. -/
def bitEvents (b : Bool) : List LineOp :=
  driveEvent .data b :: .setHigh .shcp :: (waits Config.wClk ++ [.setLow .shcp])

/-- The frame `F(b_1, ..., b_8)` (R83), with `bits` the list of the `b_i`. -/
def frameEvents (bits : List Bool) : List LineOp :=
  .setLow .stcp :: (bits.flatMap bitEvents ++ (waits Config.wSettle ++ [.setHigh .stcp] ++ waits Config.wHold))

/-- `b_1, ..., b_8` (R81, R82). -/
def sentBits (o : Order) (v : Byte) : List Bool := (List.finRange 8).map (sentBit o v)

/-- Eight stages holding the eight bits sent: `b_(k+1)` in stage k (R85 case 1). -/
def sentStages (o : Order) (v : Byte) : Stages := Stages.ofFn fun k => tri (sentBit o v k)

/-- The seven-shift outcome (R85 cases 2 and 3): stage 0 is the old `T[7]`, stage k is `b_(k+1)` for k in 1..7. -/
def sentStagesFirstLost (old : Stages) (o : Order) (v : Byte) : Stages :=
  { sentStages o v with s0 := old.s7 }

/-- The chain a frame leaves, by the level of `OUT[SHCP]` at acceptance (R85). -/
def frameChain (o : Order) (v : Byte) (s : State) : Stages :=
  match s.out.shcp with
  | .low => sentStages o v
  | .high => sentStagesFirstLost s.t o v
  | .u => if Config.edgeDraw s.draws then sentStages o v else sentStagesFirstLost s.t o v

/-- The draws a frame asks: one, if `OUT[SHCP]` was `U` at acceptance (R143). -/
def frameDraws (s : State) : Nat := if s.out.shcp = .u then 1 else 0

/-- The state in which a `WRB` returns, given `CFG = (1,1,1)`: the lines by R84, the device by R85, `VAL` by
R86, `CNT` by R104, and nothing else changed. -/
def frameReturn (o : Order) (v : Byte) (s : State) : State :=
  { s with
    phase := .idle
    cnt := 8#4
    val := 0#8
    ord := o
    bit := sentBit o v 7
    out := ⟨lvl (sentBit o v 7), .low, .high⟩
    t := frameChain o v s
    q := frameChain o v s
    draws := s.draws + frameDraws s }

end Sys2Proof.Machine
end

