-- ==== Sys2Proof/Safety.lean ====
section
/-! DEFINITION. What counts as a safe state and a safe run: the laws 41_sequencer.md R104 tabulates, as an
invariant of every step, and the host's duty of 70_reset_and_hazards.md R165. -/

namespace Sys2Proof.Machine

/-- A frame is in progress: `PHASE` is neither `Idle` nor `Configure`. -/
def Phase.inFrame : Phase → Bool
  | .idle | .configure => false
  | .latchLow | .extractBit | .driveData | .pulseClockHigh | .pulseClockLow | .shiftValue | .pulseLatch => true

/-- One of the five phases repeated for each bit. -/
def Phase.inBit : Phase → Bool
  | .extractBit | .driveData | .pulseClockHigh | .pulseClockLow | .shiftValue => true
  | .idle | .configure | .latchLow | .pulseLatch => false

/-- The phases of a bit up to and including the one that raises ShiftClock. -/
def Phase.beforeClock : Phase → Bool
  | .extractBit | .driveData | .pulseClockHigh => true
  | .idle | .configure | .latchLow | .pulseClockLow | .shiftValue | .pulseLatch => false

/-- The phases in which `BIT` holds the current bit. -/
def Phase.bitHeld : Phase → Bool
  | .driveData | .pulseClockHigh | .pulseClockLow | .shiftValue => true
  | .idle | .configure | .latchLow | .extractBit | .pulseLatch => false

/-- The phases in which Data shows the current bit. -/
def Phase.dataDriven : Phase → Bool
  | .pulseClockHigh | .pulseClockLow | .shiftValue => true
  | .idle | .configure | .latchLow | .extractBit | .driveData | .pulseLatch => false

/-- The one successor each phase other than `Idle` has (R16); only `ShiftValue` looks at `CNT`. -/
def successor : Phase → Count → Phase
  | .idle, _ => .idle
  | .configure, _ => .idle
  | .latchLow, _ => .extractBit
  | .extractBit, _ => .driveData
  | .driveData, _ => .pulseClockHigh
  | .pulseClockHigh, _ => .pulseClockLow
  | .pulseClockLow, _ => .shiftValue
  | .shiftValue, cnt => if cnt + 1#4 = 8#4 then .pulseLatch else .extractBit
  | .pulseLatch, _ => .idle

/-- What is left in `VAL` after `CNT` shifts (R86): under `MSF` a multiple of 2^CNT, under `LSF` less than
2^(8-CNT). -/
def remainingValue (s : State) : Prop :=
  match s.ord with
  | .msf => s.val.toNat % 2 ^ s.cnt.toNat = 0
  | .lsf => s.val.toNat < 2 ^ (8 - s.cnt.toNat)

/-- The laws of the machine (R104, its table; R15, R47, R86, R116, R129). -/
structure SequencerInv (s : State) : Prop where
  /-- A frame runs on configured lines only (R94, R116). -/
  configured : s.phase.inFrame = true → allOutputs s.cfg = true
  /-- `CNT` is 0 at `LatchLow`. -/
  count_start : s.phase = .latchLow → s.cnt = 0#4
  /-- `CNT` is 0..7 within a bit. -/
  count_bit : s.phase.inBit = true → s.cnt.toNat ≤ 7
  /-- `CNT` is 8 at `PulseLatch`. -/
  count_end : s.phase = .pulseLatch → s.cnt = 8#4
  /-- LatchClock is low from `ExtractBit` to `PulseLatch` (R170). -/
  latch_low : s.phase.inBit = true ∨ s.phase = .pulseLatch → s.out.stcp = .low
  /-- ShiftClock is low before each pulse but, possibly, the first (R169). -/
  clock_before : s.phase.beforeClock = true → s.cnt ≠ 0#4 → s.out.shcp = .low
  /-- ShiftClock is high at `PulseClockLow`. -/
  clock_high : s.phase = .pulseClockLow → s.out.shcp = .high
  /-- ShiftClock is low at `ShiftValue` and `PulseLatch`. -/
  clock_low : s.phase = .shiftValue ∨ s.phase = .pulseLatch → s.out.shcp = .low
  /-- `BIT` holds the extracted bit (R13). -/
  bit_held : s.phase.bitHeld = true → s.bit = extractedBit s.ord s.val
  /-- Data shows `BIT` when ShiftClock rises, so no `U` is sampled (R129, R167). -/
  data_driven : s.phase.dataDriven = true → s.out.data = lvl s.bit
  /-- `CNT` bits have been shifted out of `VAL` (R104, R86). -/
  remaining : s.phase.inBit = true ∨ s.phase = .pulseLatch → remainingValue s

/-- The host keeps the required order (R165): no `WRB` it is still to offer comes before an `INIT`, unless
the lines are outputs or the `INIT` is in progress. -/
def hostKeepsOrder (s : State) : Bool :=
  respectsInitOrder (allOutputs s.cfg || decide (s.phase = .configure)) (s.offers.map decode)

/-- No run from `s` is refused (R142): whatever the number of steps, a next state comes out. -/
def NeverRefused (s : State) : Prop := ∀ k, ∃ s', runSteps k s = .next s'

/-- Two states with the same persistent state, `CFG`, `OUT`, `T`, `Q` (R29), in the same phase and with the same
outside; they may differ in `VAL`, `ORD`, `BIT`, `CNT` alone (R28). -/
def agreeButWorking (s₁ s₂ : State) : Prop :=
  s₁.phase = s₂.phase ∧ s₁.cfg = s₂.cfg ∧ s₁.out = s₂.out ∧ s₁.t = s₂.t ∧ s₁.q = s₂.q ∧
    s₁.offers = s₂.offers ∧ s₁.draws = s₂.draws

/-- What the lines and the device show, with the draws that made it (R9, R29). -/
def sameLinesAndDevice (s₁ s₂ : State) : Prop :=
  s₁.cfg = s₂.cfg ∧ s₁.out = s₂.out ∧ s₁.t = s₂.t ∧ s₁.q = s₂.q ∧ s₁.draws = s₂.draws

end Sys2Proof.Machine
end

