-- ==== Sys2Proof/Certificates/Slice0/Obligations.lean ====
section
/-! DEFINITION. The statements for the provers, in the order of the spec's files. -/

open Sys2Proof Sys2Proof.Machine

/-! ### 10_state.md: state and reset -/

/-- R27, the table of reset values; `c` ranges over everything the table leaves open: `LINE_RESET_LEVEL` and the four
registers marked "unspecified". `State.reset` is the default levels with the model's own choice for the four (notes/assumptions 3). -/
def Obligations.ResetGivesTheTabledValues : Prop :=
  (∀ c : ResetChoice,
    (State.resetAt c).phase = .idle ∧ (State.resetAt c).cfg = ⟨false, false, false⟩ ∧
    (State.resetAt c).out = c.lineResetLevel ∧ (∀ k, (State.resetAt c).t.get k = .u) ∧
    (∀ k, (State.resetAt c).q.get k = .u) ∧ (State.resetAt c).busy = false ∧ (State.resetAt c).cmdReady = true) ∧
  (∀ (l : Lines Level) (cnt : Count) (val : Byte) (ord : Order) (bit : Bool), ∃ c : ResetChoice,
    (State.resetAt c).out = l ∧ (State.resetAt c).cnt = cnt ∧ (State.resetAt c).val = val ∧
    (State.resetAt c).ord = ord ∧ (State.resetAt c).bit = bit) ∧
  (∃ c : ResetChoice, State.reset = State.resetAt c ∧ State.reset.out = ⟨.u, .u, .u⟩)

/-- From R161 and R20: directly after reset the engine is ready and no line is driven, whatever `LINE_RESET_LEVEL`. That the
step with nothing offered answers the same state is the model's choice (notes/assumptions 4). -/
def Obligations.NoLineIsDrivenAfterReset : Prop :=
  ∀ (c : ResetChoice), (State.resetAt c).cmdReady = true ∧ (∀ n, (State.resetAt c).lineLevel n = .u) ∧
    (∀ k, (State.resetAt c).deviceOutputs.get k = .u) ∧ step (State.resetAt c) = .next (State.resetAt c)

/-- From R162: a later reset starts a new run with `T` and `Q` again `U`; reset in a frame is refused. That the host's list and the
count of draws go on is the model's own (notes/assumptions 7). -/
def Obligations.LaterResetStartsANewRun : Prop :=
  ∀ (c : ResetChoice) (s : State),
    (s.phase = .idle → hostMove (.assertReset c) s =
      .next { State.resetAt c with offers := s.offers, draws := s.draws }) ∧
    (s.phase ≠ .idle → hostMove (.assertReset c) s = .refused .resetInFrame)

/-- R12: `ORD` is loaded from `cmd[8]` when a `WRB` is accepted and not changed until the next acceptance of one. -/
def Obligations.OrderIsFixedForTheWholeFrame : Prop :=
  ∀ s s' : State, step s = .next s' →
    (s.phase ≠ .idle → s'.ord = s.ord) ∧
    (s.phase = .idle → s.offers = [] → s'.ord = s.ord) ∧
    (∀ w ws, s.phase = .idle → s.offers = w :: ws →
      s'.ord = if w.getLsbD 9 then (if w.getLsbD 8 then .lsf else .msf) else s.ord)

/-- From R16 with R14, R15: outside `Idle`, `PHASE` and `CNT` go to the one successor named, which is a function of `PHASE` and
`CNT` alone. That `ShiftValue` has a successor from a `CNT` of 8 to 15, which no run has there (R15), is the model's choice
(notes/assumptions 10). -/
def Obligations.SuccessorDependsOnPhaseAndCountAlone : Prop :=
  ∀ s₁ : State, s₁.phase ≠ .idle → ∃ t₁, step s₁ = .next t₁ ∧
    t₁.phase = successor s₁.phase s₁.cnt ∧ t₁.cnt = (if s₁.phase = .shiftValue then s₁.cnt + 1#4 else s₁.cnt) ∧
    ∀ s₂ : State, s₂.phase = s₁.phase → s₂.cnt = s₁.cnt →
      ∃ t₂, step s₂ = .next t₂ ∧ t₂.phase = t₁.phase ∧ t₂.cnt = t₁.cnt

/-- R18: nothing ever clears a `CFG` bit but reset; `CFG` changes in the `Configure` step alone, and
`configureAsOutput` sets it. -/
def Obligations.NothingClearsAConfigurationBit : Prop :=
  (∀ s s' : State, step s = .next s' →
    (∀ n, s.cfg.get n = true → s'.cfg.get n = true) ∧ (s'.cfg ≠ s.cfg → s.phase = .configure)) ∧
  (∀ (n : Line) (s : State), (configureAsOutput n s).cfg.get n = true) ∧
  (∀ (op : LineOp) (s : State) (n : Line), s.cfg.get n = true → (runLineOp op s).cfg.get n = true) ∧
  (∀ (c : ResetChoice) (n : Line), (State.resetAt c).cfg.get n = false)

/-- From R19 and R114: no operation writes `U`, and nothing of the engine depends on `OUT`: with any other levels the same
events are recorded and the engine's registers move the same way. -/
def Obligations.EngineNeverReadsTheLines : Prop :=
  (∀ (op : LineOp) (s : State) (n : Line), (runLineOp op s).out.get n = .u → s.out.get n = .u) ∧
  (∀ (s : State) (l : Lines Level), stepEvents (s.setOut l) = stepEvents s ∧
    ((∃ r, step s = .refused r ∧ step (s.setOut l) = .refused r) ∨
      ∃ t t', step s = .next t ∧ step (s.setOut l) = .next t' ∧ t'.phase = t.phase ∧ t'.cnt = t.cnt ∧
        t'.val = t.val ∧ t'.ord = t.ord ∧ t'.bit = t.bit ∧ t'.cfg = t.cfg ∧ t'.offers = t.offers))

/-- R28: `VAL`, `ORD`, `BIT` and `CNT` are dead at `Idle` and `Configure`: two runs that differ in them alone are
observed alike, however long. -/
def Obligations.WorkingRegistersAreDeadBetweenCommands : Prop :=
  ∀ s₁ s₂ : State, (s₁.phase = .idle ∨ s₁.phase = .configure) → agreeButWorking s₁ s₂ →
    ∀ k, observe k s₁ = observe k s₂

/-- From R29: `WRB` overwrites `OUT`, `T` and `Q` (from a low ShiftClock, nothing of the old levels or contents is left) and never
changes `CFG`; `INIT` changes only `CFG`. -/
def Obligations.WhatACommandOverwrites : Prop :=
  (∀ (o : Order) (v : Byte) (s₁ s₂ : State), s₁.phase = .idle → s₂.phase = .idle →
    s₁.cfg = ⟨true, true, true⟩ → s₂.cfg = ⟨true, true, true⟩ → s₁.out.shcp = .low → s₂.out.shcp = .low →
    ∃ t₁ t₂, perform (writeByte o v) s₁ = .next t₁ ∧ perform (writeByte o v) s₂ = .next t₂ ∧
      t₁.out = t₂.out ∧ t₁.t = t₂.t ∧ t₁.q = t₂.q ∧ t₁.cfg = s₁.cfg) ∧
  (∀ s : State, s.phase = .idle → ∃ t, perform .init s = .next t ∧ t.out = s.out ∧ t.t = s.t ∧ t.q = s.q ∧
    t.val = s.val ∧ t.ord = s.ord ∧ t.bit = s.bit ∧ t.cnt = s.cnt)

/-! ### 30_encoding.md: encoding and the command port -/

/-- R65: the opcode map; exactly one row matches each word, and the words of each row are the stated range. -/
def Obligations.OpcodeMapDecidesEveryWord : Prop :=
  ∀ w : CmdWord,
    (w &&& 0x200#10 = 0x000#10 ↔ decode w = .init) ∧
    (w &&& 0x300#10 = 0x200#10 ↔ decode w = .wrbMsf (w.extractLsb' 0 8)) ∧
    (w &&& 0x300#10 = 0x300#10 ↔ decode w = .wrbLsf (w.extractLsb' 0 8)) ∧
    (opcodeMap.filter fun r => r.selects w).map OpcodeRow.mnemonic = [(decode w).mnemonic] ∧
    (w.toNat ≤ 0x1FF → decode w = .init) ∧
    (0x200 ≤ w.toNat → w.toNat ≤ 0x2FF → decode w = .wrbMsf (BitVec.ofNat 8 (w.toNat - 0x200))) ∧
    (0x300 ≤ w.toNat → decode w = .wrbLsf (BitVec.ofNat 8 (w.toNat - 0x300)))

/-- R71: the decoder and encoder laws, for every command and every word. -/
def Obligations.DecodeAndEncodeAgree : Prop :=
  (encode .init = 0x000#10 ∧ (∀ v : Byte, encode (.wrbMsf v) = 0x200#10 + v.setWidth 10) ∧
    (∀ v : Byte, encode (.wrbLsf v) = 0x300#10 + v.setWidth 10)) ∧
  (∀ i : Instr, decode (encode i) = i) ∧
  (∀ w : CmdWord, w.getLsbD 9 = true → encode (decode w) = w) ∧
  (∀ w : CmdWord, w.getLsbD 9 = false → encode (decode w) = 0x000#10)

/-- R72: the worked encodings, each word written out by its fields. -/
def Obligations.WorkedEncodings : Prop :=
  encode (.wrbMsf 0b10110001#8) = 0b1010110001#10 ∧ decode 0b1010110001#10 = .wrbMsf 0b10110001#8 ∧
  encode (.wrbLsf 0b10110001#8) = 0b1110110001#10 ∧ decode 0b1110110001#10 = .wrbLsf 0b10110001#8 ∧
  encode (.wrbMsf 0#8) = 0x200#10 ∧ encode (.wrbLsf 0#8) = 0x300#10 ∧ encode .init = 0x000#10 ∧
  (0b1010110001#10 : CmdWord) = 0x2B1#10 ∧ (0b1110110001#10 : CmdWord) = 0x3B1#10

/-- From R69's table: the word of a line of assembly is `0x200 + imm8` or `0x300 + imm8`, and a literal above 255 is refused. -/
def Obligations.AssemblyLinesGiveTheirWords : Prop :=
  (assembleLine .init).map encode = some 0x000#10 ∧
  (∀ imm : Nat, (assembleLine (.wrb .msf imm)).map encode =
    if imm ≤ 255 then some (BitVec.ofNat 10 (0x200 + imm)) else none) ∧
  (∀ imm : Nat, (assembleLine (.wrb .lsf imm)).map encode =
    if imm ≤ 255 then some (BitVec.ofNat 10 (0x300 + imm)) else none)

/-- A step runs the decoded instruction: the word offered at `Idle` is taken and its command run (R93, R94); in another phase
the step is the phase's. With nothing offered the state does not change (R92; that this is a step of the model at all is its own
choice, notes/assumptions 4). -/
def Obligations.StepRunsTheOfferedCommand : Prop :=
  ∀ s : State,
    (∀ w ws i, s.phase = .idle → s.offers = w :: ws → decode w = i → step s = exec i (s.setOffers ws)) ∧
    (s.phase = .idle → s.offers = [] → step s = .next s) ∧
    (s.phase ≠ .idle → step s = .next (phaseStep s))

/-- From R66: acceptance at `Idle` with a word offered, and only then; while the engine is busy the word is neither accepted
nor remembered, so it cannot matter. That `exec` at a busy engine answers the same state is the model's reading
(notes/assumptions 5). -/
def Obligations.CommandPortHandshake : Prop :=
  ∀ s : State,
    (s.cmdReady = true ↔ s.phase = .idle) ∧ s.cmdReady = !s.busy ∧
    (∀ w ws, s.phase = .idle → s.offers = w :: ws →
      step s = exec (decode w) (s.setOffers ws) ∧ ∀ t, step s = .next t → t.phase ≠ .idle ∧ t.offers = ws) ∧
    (s.phase ≠ .idle → (∀ i, exec i s = .next s) ∧
      ∃ t, step s = .next t ∧ t.offers = s.offers ∧ ∀ ws, step (s.setOffers ws) = .next (t.setOffers ws))

/-! ### 40_commands.md: the commands as a whole -/

/-- From R80: `INIT`. Its encoding, its acceptance, its effect from acceptance to return, its events, its idempotence, and its
waiting while a command is in progress. That `exec` at a busy engine answers the same state is the model's reading
(notes/assumptions 5). -/
def Obligations.InitConfiguresTheThreeLines : Prop :=
  (encode .init = 0x000#10 ∧ ∀ x : BitVec 9, decode (0b0#1 ++ x) = .init) ∧
  (∀ s : State, s.phase = .idle →
    exec .init s = .next { s with phase := .configure } ∧
    perform .init s = .next { s with cfg := ⟨true, true, true⟩ } ∧
    commandTrace .init s = [.configureAsOutput .data, .configureAsOutput .shcp, .configureAsOutput .stcp] ∧
    (s.cfg = ⟨true, true, true⟩ → perform .init s = .next s)) ∧
  (∀ s : State, s.phase ≠ .idle → exec .init s = .next s)

/-- R81: `WRB.MSF`. It is accepted when `CFG = (1,1,1)`, performs the frame of `b_i = VALUE[8-i]`, and in the normal case
leaves `Q[k] = VALUE[7-k]`; without `CFG = (1,1,1)` it is refused. -/
def Obligations.WrbMsfSendsMostSignificantFirst : Prop :=
  ∀ (v : Byte) (s : State), s.phase = .idle →
    (encode (.wrbMsf v) = 0b10#2 ++ v ∧ decode (0b10#2 ++ v) = .wrbMsf v) ∧
    (s.cfg ≠ ⟨true, true, true⟩ → exec (.wrbMsf v) s = .refused .wrbBeforeInit) ∧
    (s.cfg = ⟨true, true, true⟩ →
      exec (.wrbMsf v) s = .next { s with val := v, ord := .msf, cnt := 0#4, phase := .latchLow } ∧
      commandTrace (.wrbMsf v) s = frameEvents [v.getLsbD 7, v.getLsbD 6, v.getLsbD 5, v.getLsbD 4,
        v.getLsbD 3, v.getLsbD 2, v.getLsbD 1, v.getLsbD 0] ∧
      ∃ t, perform (.wrbMsf v) s = .next t ∧ t.phase = .idle ∧ t.cfg = s.cfg ∧ t.offers = s.offers ∧
        t.out = ⟨lvl (v.getLsbD 0), .low, .high⟩ ∧ t.val = 0#8 ∧
        (s.out.shcp = .low → ∀ k : Fin 8, t.q.get k = tri (v.getLsbD (7 - k.val))) ∧
        t.q = frameChain .msf v s)

/-- R82: `WRB.LSF`, as `WRB.MSF` with `b_i = VALUE[i-1]` and `Q[k] = VALUE[k]`; a palindrome gives the same frame under both
orders. -/
def Obligations.WrbLsfSendsLeastSignificantFirst : Prop :=
  ∀ (v : Byte) (s : State), s.phase = .idle →
    (encode (.wrbLsf v) = 0b11#2 ++ v ∧ decode (0b11#2 ++ v) = .wrbLsf v) ∧
    (s.cfg ≠ ⟨true, true, true⟩ → exec (.wrbLsf v) s = .refused .wrbBeforeInit) ∧
    (s.cfg = ⟨true, true, true⟩ →
      exec (.wrbLsf v) s = .next { s with val := v, ord := .lsf, cnt := 0#4, phase := .latchLow } ∧
      commandTrace (.wrbLsf v) s = frameEvents [v.getLsbD 0, v.getLsbD 1, v.getLsbD 2, v.getLsbD 3,
        v.getLsbD 4, v.getLsbD 5, v.getLsbD 6, v.getLsbD 7] ∧
      (reverseBits v = v → commandTrace (.wrbLsf v) s = commandTrace (.wrbMsf v) s) ∧
      ∃ t, perform (.wrbLsf v) s = .next t ∧ t.phase = .idle ∧ t.cfg = s.cfg ∧ t.offers = s.offers ∧
        t.out = ⟨lvl (v.getLsbD 7), .low, .high⟩ ∧ t.val = 0#8 ∧
        (s.out.shcp = .low → ∀ k : Fin 8, t.q.get k = tri (v.getLsbD k.val)) ∧
        t.q = frameChain .lsf v s)

/-- R83: the frame. The step machine emits exactly the line operations of `F(b_1, ..., b_8)`, 26 of them write events. -/
def Obligations.StepMachineEmitsTheFrame : Prop :=
  ∀ (o : Order) (v : Byte) (s : State), s.phase = .idle → s.cfg = ⟨true, true, true⟩ →
    commandTrace (writeByte o v) s =
      [LineOp.setLow .stcp] ++
      (sentBits o v).flatMap (fun b =>
        [if b then LineOp.setHigh .data else LineOp.setLow .data, LineOp.setHigh .shcp] ++
          List.replicate Config.wClk LineOp.busyWaitShort ++ [LineOp.setLow .shcp]) ++
      List.replicate Config.wSettle LineOp.busyWaitShort ++ [LineOp.setHigh .stcp] ++ List.replicate Config.wHold LineOp.busyWaitShort ∧
    ((commandTrace (writeByte o v) s).filter LineOp.isWrite).length = 26

/-- R84: the lines when a `WRB` returns, whatever they were at acceptance. -/
def Obligations.LinesWhenWrbReturns : Prop :=
  ∀ (v : Byte) (s : State), s.phase = .idle → s.cfg = ⟨true, true, true⟩ →
    (∃ t, perform (.wrbMsf v) s = .next t ∧ t.out.stcp = .high ∧ t.out.shcp = .low ∧
      t.out.data = lvl (v.getLsbD 0)) ∧
    (∃ t, perform (.wrbLsf v) s = .next t ∧ t.out.stcp = .high ∧ t.out.shcp = .low ∧
      t.out.data = lvl (v.getLsbD 7))

/-- R85: the device. `Q` is the old one up to the final `S1`; then by the level of `OUT[SHCP]` at acceptance the eight-shift or
the seven-shift outcome, with a draw in case `U` alone; one LatchClock rising edge in every case. The answer to the draw is the
free value `Config.edgeDraw s.draws` (notes/assumptions 2), so the statement says what each answer gives. -/
def Obligations.DeviceAfterAFrame : Prop :=
  ∀ (o : Order) (v : Byte) (s : State), s.phase = .idle → s.cfg = ⟨true, true, true⟩ →
    ∃ s₁ t, exec (writeByte o v) s = .next s₁ ∧ perform (writeByte o v) s = .next t ∧
      (∀ j, j ≤ 41 → ∃ u, runSteps j s₁ = .next u ∧ u.q = s.q) ∧ t.q = t.t ∧
      (∀ k : Fin 8, k ≠ 0 → t.t.get k = tri (sentBit o v k)) ∧
      (s.out.shcp = .low → t.t.get 0 = tri (sentBit o v 0) ∧ risingEdges .shcp 42 s₁ = 8 ∧ t.draws = s.draws) ∧
      (s.out.shcp = .high → t.t.get 0 = s.t.get 7 ∧ risingEdges .shcp 42 s₁ = 7 ∧ t.draws = s.draws) ∧
      (s.out.shcp = .u → t.draws = s.draws + 1 ∧
        (Config.edgeDraw s.draws = true → t.t.get 0 = tri (sentBit o v 0) ∧ risingEdges .shcp 42 s₁ = 8) ∧
        (Config.edgeDraw s.draws = false → t.t.get 0 = s.t.get 7 ∧ risingEdges .shcp 42 s₁ = 7)) ∧
      risingEdges .stcp 42 s₁ = 1

/-- The two descriptions agree (40_commands.md against 41_sequencer.md): from acceptance to return the sequencer reaches exactly
the state the whole-command rules give, every other part of the state unchanged. -/
def Obligations.SequencerRefinesTheWholeCommand : Prop :=
  ∀ (o : Order) (v : Byte) (s : State), s.phase = .idle → s.cfg = ⟨true, true, true⟩ →
    perform (writeByte o v) s = .next (frameReturn o v s)

/-- R86: extraction and shifting, one step and after `j` shifts. -/
def Obligations.ExtractionAndShifting : Prop :=
  ∀ v : Byte,
    (extractedBit .msf v = v.getLsbD 7 ∧ shiftedValue .msf v = v <<< 1) ∧
    (extractedBit .lsf v = v.getLsbD 0 ∧ shiftedValue .lsf v = v >>> 1) ∧
    (∀ j, j ≤ 8 → ((shiftedValue .msf)^[j] v).toNat = v.toNat * 2 ^ j % 256) ∧
    (∀ j, j ≤ 8 → ((shiftedValue .lsf)^[j] v).toNat = v.toNat / 2 ^ j) ∧
    (∀ i, 1 ≤ i → i ≤ 8 → extractedBit .msf ((shiftedValue .msf)^[i - 1] v) = v.getLsbD (8 - i)) ∧
    (∀ i, 1 ≤ i → i ≤ 8 → extractedBit .lsf ((shiftedValue .lsf)^[i - 1] v) = v.getLsbD (i - 1)) ∧
    (shiftedValue .msf)^[8] v = 0#8 ∧ (shiftedValue .lsf)^[8] v = 0#8

/-- R87: the bit-order symmetry law, and its consequence for one value under both orders. -/
def Obligations.BitOrderSymmetry : Prop :=
  ∀ (v : Byte) (s : State), s.phase = .idle → s.cfg = ⟨true, true, true⟩ →
    commandTrace (.wrbMsf v) s = commandTrace (.wrbLsf (reverseBits v)) s ∧
    ∃ a b c, perform (.wrbMsf v) s = .next a ∧ perform (.wrbLsf (reverseBits v)) s = .next b ∧
      perform (.wrbLsf v) s = .next c ∧ a.out = b.out ∧ a.t = b.t ∧ a.q = b.q ∧
      (s.out.shcp = .low → ∀ k : Fin 8, c.q.get k = a.q.get k.rev)

/-- From R88: the counts of one `WRB`. That a Data write from level `U` counts as a level change is the model's choice
(notes/assumptions 19); the bound of eight holds whichever way it is counted. -/
def Obligations.CountsOfOneFrame : Prop :=
  ∀ (o : Order) (v : Byte) (s : State), s.phase = .idle → s.cfg = ⟨true, true, true⟩ →
    (commandTrace (writeByte o v) s).filter LineOp.isWrite =
      [LineOp.setLow .stcp] ++
      (sentBits o v).flatMap (fun b =>
        [if b then LineOp.setHigh .data else LineOp.setLow .data, LineOp.setHigh .shcp, LineOp.setLow .shcp]) ++ [LineOp.setHigh .stcp] ∧
    (commandTrace (writeByte o v) s).count (.setHigh .shcp) = 8 ∧
    (commandTrace (writeByte o v) s).count (.setLow .shcp) = 8 ∧
    (commandTrace (writeByte o v) s).count (.setLow .stcp) = 1 ∧
    (commandTrace (writeByte o v) s).count (.setHigh .stcp) = 1 ∧
    (commandTrace (writeByte o v) s).count (.setHigh .data) +
      (commandTrace (writeByte o v) s).count (.setLow .data) = 8 ∧
    ∃ s₁, exec (writeByte o v) s = .next s₁ ∧
      (risingEdges .shcp 42 s₁ = 7 ∨ risingEdges .shcp 42 s₁ = 8) ∧
      (s.out.shcp = .low → risingEdges .shcp 42 s₁ = 8) ∧ risingEdges .stcp 42 s₁ = 1 ∧
      levelChanges .data 42 s₁ ≤ 8

/-! ### 41_sequencer.md: the step rules -/

/-- R93: acceptance of `INIT`. -/
def Obligations.AcceptingInit : Prop :=
  ∀ (s : State) (w : CmdWord) (ws : List CmdWord), s.phase = .idle → s.offers = w :: ws → w.getLsbD 9 = false →
    stepEvents s = [] ∧ step s = .next { s with offers := ws, phase := .configure }

/-- R94: acceptance of `WRB`, and its refusal. -/
def Obligations.AcceptingWrb : Prop :=
  ∀ (s : State) (w : CmdWord) (ws : List CmdWord), s.phase = .idle → s.offers = w :: ws → w.getLsbD 9 = true →
    stepEvents s = [] ∧
    (s.cfg = ⟨true, true, true⟩ → step s = .next { s with
      offers := ws
      val := w.extractLsb' 0 8
      ord := if w.getLsbD 8 then .lsf else .msf
      cnt := 0#4
      phase := .latchLow }) ∧
    (s.cfg ≠ ⟨true, true, true⟩ → step s = .refused .wrbBeforeInit)

/-- R95: phase `Configure`. -/
def Obligations.ConfigurePhase : Prop :=
  ∀ s : State, s.phase = .configure →
    stepEvents s = [.configureAsOutput .data, .configureAsOutput .shcp, .configureAsOutput .stcp] ∧
    step s = .next { s with cfg := ⟨true, true, true⟩, phase := .idle }

/-- R96: phase `LatchLow`; the device does not react, whatever `OUT[STCP]` was. -/
def Obligations.LatchLowPhase : Prop :=
  ∀ s : State, s.phase = .latchLow →
    stepEvents s = [.setLow .stcp] ∧
    step s = .next { s with out := { s.out with stcp := .low }, phase := .extractBit }

/-- R97: phase `ExtractBit`. -/
def Obligations.ExtractBitPhase : Prop :=
  ∀ s : State, s.phase = .extractBit →
    stepEvents s = [] ∧
    step s = .next { s with
      bit := match s.ord with
        | .msf => s.val.getLsbD 7
        | .lsf => s.val.getLsbD 0
      phase := .driveData }

/-- R98: phase `DriveData`. -/
def Obligations.DriveDataPhase : Prop :=
  ∀ s : State, s.phase = .driveData →
    stepEvents s = [if s.bit then .setHigh .data else .setLow .data] ∧
    step s = .next { s with
      out := { s.out with data := if s.bit then .high else .low }
      phase := .pulseClockHigh }

/-- From R99: phase `PulseClockHigh`, with the device's reaction (R122, R123). In a frame the line is an output; that a write
of an unconfigured ShiftClock, which shows `U`, asks a draw too is the model's choice (notes/assumptions 9). -/
def Obligations.PulseClockHighPhase : Prop :=
  ∀ s : State, s.phase = .pulseClockHigh →
    stepEvents s = [.setHigh .shcp] ∧
    ∃ t, step s = .next { s with
        out := { s.out with shcp := .high }
        phase := .pulseClockLow
        t := t
        draws := if s.lineLevel .shcp = .u then s.draws + 1 else s.draws } ∧
      (s.lineLevel .shcp = .low → (∀ k : Fin 7, t.get k.castSucc = s.t.get k.succ) ∧
        t.get 7 = bit3 (s.lineLevel .data)) ∧
      (s.lineLevel .shcp = .high → t = s.t) ∧
      (s.lineLevel .shcp = .u → t = if Config.edgeDraw s.draws then s.t.shiftIn (bit3 (s.lineLevel .data)) else s.t)

/-- R100: phase `PulseClockLow`. -/
def Obligations.PulseClockLowPhase : Prop :=
  ∀ s : State, s.phase = .pulseClockLow →
    stepEvents s = List.replicate Config.wClk LineOp.busyWaitShort ++ [LineOp.setLow .shcp] ∧
    step s = .next { s with out := { s.out with shcp := .low }, phase := .shiftValue }

/-- From R101: phase `ShiftValue`; the count on the right is the one before the step. That a `CNT` of 8 to 15, which no run has
here (R15), counts on in its 4 bits is the model's choice (notes/assumptions 10). -/
def Obligations.ShiftValuePhase : Prop :=
  ∀ s : State, s.phase = .shiftValue →
    stepEvents s = [] ∧
    step s = .next { s with
      val := match s.ord with
        | .msf => s.val <<< 1
        | .lsf => s.val >>> 1
      cnt := s.cnt + 1#4
      phase := if s.cnt + 1#4 = 8#4 then .pulseLatch else .extractBit }

/-- From R102: phase `PulseLatch`. In a frame `OUT[STCP]` is `L` here, so the write is a rising edge and the device latches.
The other two levels, which no run has here, are the device's own rule (R122, R124); that an unconfigured LatchClock, which
shows `U`, follows it too is the model's choice (notes/assumptions 9). -/
def Obligations.PulseLatchPhase : Prop :=
  ∀ s : State, s.phase = .pulseLatch →
    stepEvents s = List.replicate Config.wSettle LineOp.busyWaitShort ++ [LineOp.setHigh .stcp] ++
      List.replicate Config.wHold LineOp.busyWaitShort ∧
    (SequencerInv s → step s = .next { s with out := { s.out with stcp := .high }, phase := .idle, q := s.t }) ∧
    ∃ q, step s = .next { s with
        out := { s.out with stcp := .high }
        phase := .idle
        q := q
        draws := if s.lineLevel .stcp = .u then s.draws + 1 else s.draws } ∧
      (s.lineLevel .stcp = .low → q = s.t) ∧ (s.lineLevel .stcp = .high → q = s.q) ∧
      (s.lineLevel .stcp = .u → q = if Config.edgeDraw s.draws then s.t else s.q)

/-- From R104: `INIT` takes 2 steps and `WRB` 43, the acceptance included, whatever the operands: the engine is busy after
every step but the last. -/
def Obligations.StepsOfACommand : Prop :=
  ∀ s : State, s.phase = .idle →
    (∃ t u, exec .init s = .next t ∧ t.phase ≠ .idle ∧ step t = .next u ∧ u.phase = .idle) ∧
    (∀ (o : Order) (v : Byte), s.cfg = ⟨true, true, true⟩ → ∃ t, exec (writeByte o v) s = .next t ∧
      (∀ j, j < 42 → ∃ u, runSteps j t = .next u ∧ u.phase ≠ .idle) ∧
      ∃ u, runSteps 42 t = .next u ∧ u.phase = .idle)

/-- The laws of R104's table hold directly after reset, for every choice reset leaves open. -/
def Obligations.ResetMeetsTheSequencerLaws : Prop := ∀ c : ResetChoice, SequencerInv (State.resetAt c)

/-- The laws of R104's table, with what they rest on, are kept by every step from every state that meets them. -/
def Obligations.StepKeepsTheSequencerLaws : Prop :=
  ∀ s s' : State, SequencerInv s → step s = .next s' → SequencerInv s'

/-- From R90: one step makes at most one write of a line, and no level changes without one; the `Configure` step makes three
`configureAsOutput` instead, and no other step makes any. -/
def Obligations.OneLineWritePerStep : Prop :=
  ∀ s : State, ((stepEvents s).filter LineOp.isWrite).length ≤ 1 ∧
    (s.phase = .configure → (stepEvents s).filter LineOp.isWrite = [] ∧ (stepEvents s).length = 3) ∧
    (∀ n, .configureAsOutput n ∈ stepEvents s → s.phase = .configure) ∧
    (∀ s' n, step s = .next s' → s'.out.get n ≠ s.out.get n →
      .setHigh n ∈ stepEvents s ∨ .setLow n ∈ stepEvents s)

/-! ### 42_line_operations.md and 43_attached_register.md -/

/-- From R110: `configureAsOutput`. -/
def Obligations.ConfigureAsOutputEffect : Prop :=
  ∀ (n : Line) (s : State),
    runLineOp (.configureAsOutput n) s = { s with cfg := s.cfg.set n true } ∧
    (runLineOp (.configureAsOutput n) s).lineLevel n = s.out.get n ∧
    (s.cfg.get n = false → s.lineLevel n = .u) ∧
    (s.cfg.get n = true → runLineOp (.configureAsOutput n) s = s) ∧
    (∀ m, m ≠ n → (runLineOp (.configureAsOutput n) s).cfg.get m = s.cfg.get m)

/-- From R111 and R122 to R124: `setHigh`, on each line and from each level. A line that is no output shows `U` (R20); that a
write of one follows the same rules is the model's choice (notes/assumptions 9). -/
def Obligations.SetHighEffect : Prop :=
  ∀ s : State,
    runLineOp (.setHigh .data) s = { s with out := { s.out with data := .high } } ∧
    (s.lineLevel .shcp = .low → runLineOp (.setHigh .shcp) s =
      { s with out := { s.out with shcp := .high }, t := s.t.shiftIn (bit3 (s.lineLevel .data)) }) ∧
    (s.lineLevel .shcp = .high → runLineOp (.setHigh .shcp) s = { s with out := { s.out with shcp := .high } }) ∧
    (s.lineLevel .shcp = .u → ∃ e : Bool, runLineOp (.setHigh .shcp) s =
      { s with
        out := { s.out with shcp := .high }
        t := if e then s.t.shiftIn (bit3 (s.lineLevel .data)) else s.t
        draws := s.draws + 1 }) ∧
    (s.lineLevel .stcp = .low → runLineOp (.setHigh .stcp) s =
      { s with out := { s.out with stcp := .high }, q := s.t }) ∧
    (s.lineLevel .stcp = .high → runLineOp (.setHigh .stcp) s = { s with out := { s.out with stcp := .high } }) ∧
    (s.lineLevel .stcp = .u → ∃ e : Bool, runLineOp (.setHigh .stcp) s =
      { s with
        out := { s.out with stcp := .high }
        q := if e then s.t else s.q
        draws := s.draws + 1 })

/-- R112: `setLow`, and R113: `busyWaitShort` changes nothing. -/
def Obligations.SetLowAndWaitEffect : Prop :=
  (∀ (n : Line) (s : State), runLineOp (.setLow n) s = { s with out := s.out.set n .low } ∧
    (∀ m, m ≠ n → (runLineOp (.setLow n) s).out.get m = s.out.get m) ∧
    (s.out.get n = .low → runLineOp (.setLow n) s = s)) ∧
  (∀ s : State, runLineOp .busyWaitShort s = s)

/-- R123, with R129: a rising edge on `SHCP`, stage by stage, for every level of Data. A rising edge is R122's: a `setHigh`
from `L`, or from `U` with the draw answered so. -/
def Obligations.ShiftClockEdgeShiftsTheChain : Prop :=
  ∀ s : State,
    (s.lineLevel .shcp = .low → risingEdge .shcp s = true) ∧ (s.lineLevel .shcp = .high → risingEdge .shcp s = false) ∧
    (risingEdge .shcp s = true →
      (∀ k : Fin 7, (setHigh .shcp s).t.get k.castSucc = s.t.get k.succ) ∧
      (s.lineLevel .data = .high → (setHigh .shcp s).t.get 7 = .one) ∧
      (s.lineLevel .data = .low → (setHigh .shcp s).t.get 7 = .zero) ∧
      (s.lineLevel .data = .u → (setHigh .shcp s).t.get 7 = .u) ∧
      (setHigh .shcp s).q = s.q)

/-- R124: a rising edge on `STCP` (R122) copies all eight stages at once, a `U` as `U`. -/
def Obligations.LatchClockEdgeCopiesTheChain : Prop :=
  ∀ s : State,
    (s.lineLevel .stcp = .low → risingEdge .stcp s = true) ∧ (s.lineLevel .stcp = .high → risingEdge .stcp s = false) ∧
    (risingEdge .stcp s = true →
      (∀ k : Fin 8, (setHigh .stcp s).q.get k = s.t.get k) ∧ (setHigh .stcp s).t = s.t)

/-- R125: nothing else changes the device: no other line operation, no `setHigh` from `H`, and no step that makes neither. -/
def Obligations.NothingElseChangesTheDevice : Prop :=
  (∀ (op : LineOp) (s : State), (op = .setHigh .shcp → s.lineLevel .shcp = .high) → (runLineOp op s).t = s.t) ∧
  (∀ (op : LineOp) (s : State), (op = .setHigh .stcp → s.lineLevel .stcp = .high) → (runLineOp op s).q = s.q) ∧
  (∀ s s' : State, step s = .next s' → stepEdge .shcp s = false → s'.t = s.t) ∧
  (∀ s s' : State, step s = .next s' → stepEdge .stcp s = false → s'.q = s.q)

/-- R126: `Q` holds until the final `S1`, and takes the whole chain in that step: the outside sees no intermediate content. -/
def Obligations.OutputsHoldUntilTheLatch : Prop :=
  ∀ s s' : State, SequencerInv s → step s = .next s' →
    (s.phase ≠ .pulseLatch → s'.q = s.q) ∧
    (s.phase = .pulseLatch → .setHigh .stcp ∈ stepEvents s ∧ s'.q = s.t)

/-- From R128: eight samples replace all eight stages, whatever the chain held; seven leave the old `T[7]` in stage 0. -/
def Obligations.EightEdgesReplaceTheChain : Prop :=
  ∀ (r : Stages) (b : Fin 8 → TriBit),
    (∀ k, (((List.finRange 8).map b).foldl Stages.shiftIn r).get k = b k) ∧
    (∀ k : Fin 8, ((((List.finRange 8).map b).tail).foldl Stages.shiftIn r).get k = if k = 0 then r.get 7 else b k)

/-- From R167 and R129: when ShiftClock is about to rise, Data already shows the bit extracted from `VAL`, and no `U` is sampled. -/
def Obligations.DataIsSetBeforeShiftClockRises : Prop :=
  ∀ s s' : State, SequencerInv s → s.phase = .pulseClockHigh → step s = .next s' →
    s.lineLevel .data = lvl (extractedBit s.ord s.val) ∧ s'.out.data = s.out.data ∧
    (stepEdge .shcp s = true → s'.t.get 7 = tri (extractedBit s.ord s.val))

/-! ### 60_exceptions.md and 70_reset_and_hazards.md -/

/-- From R142 and R140: there is no fault; a step is refused exactly when a `WRB` word is offered at `Idle` with `CFG` not
(1,1,1); the two other refusals are raised by the host's moves alone. That those two
are moves outside `step` is the model's reading (notes/assumptions 18). -/
def Obligations.TheOnlyRefusals : Prop :=
  (∀ s f, step s ≠ .fault f) ∧
  (∀ s r, step s = .refused r ↔
    r = .wrbBeforeInit ∧ s.phase = .idle ∧ s.cfg ≠ ⟨true, true, true⟩ ∧
      ∃ w ws, s.offers = w :: ws ∧ w.getLsbD 9 = true) ∧
  (∀ m s r, hostMove m s = .refused r ↔
    (m = .foreignWrite ∧ r = .secondWriter) ∨
    ((∃ c, m = .assertReset c) ∧ s.phase ≠ .idle ∧ r = .resetInFrame))

/-- From R143: a run asks a draw only at the first `C1` of a frame that found ShiftClock undetermined, never for LatchClock;
once a frame has returned, no draw is asked in the next. -/
def Obligations.DrawsAreAskedForTheFirstClockOnly : Prop :=
  (∀ s s' : State, SequencerInv s → step s = .next s' → s'.draws ≠ s.draws →
    s'.draws = s.draws + 1 ∧ s.phase = .pulseClockHigh ∧ s.cnt = 0#4 ∧ s.out.shcp = .u) ∧
  (∀ (o o' : Order) (v v' : Byte) (s : State), s.phase = .idle → s.cfg = ⟨true, true, true⟩ →
    ∃ t u, perform (writeByte o v) s = .next t ∧ perform (writeByte o' v') t = .next u ∧ u.draws = t.draws)

/-- From R144: every phase other than `Idle` has a step, whatever the host offers; and from every state that meets the laws of the machine the engine is
`Idle` again after at most 42 steps, busy until then. -/
def Obligations.EveryCommandReturns : Prop :=
  (∀ s : State, s.phase ≠ .idle → ∃ t, step s = .next t ∧ ∀ ws, step (s.setOffers ws) = .next (t.setOffers ws)) ∧
  (∀ s : State, SequencerInv s → s.phase ≠ .idle → ∃ k, 1 ≤ k ∧ k ≤ 42 ∧
    (∀ j, j < k → ∃ u, runSteps j s = .next u ∧ u.phase ≠ .idle) ∧
    ∃ t, runSteps k s = .next t ∧ t.phase = .idle)

/-- From R152: the lines and the device after a run are a function of the levels and contents at its start and of its trace,
up to the answers to the draws: replaying the trace gives them. -/
def Obligations.TraceDeterminesTheDevice : Prop :=
  ∀ (k : Nat) (s s' : State), runSteps k s = .next s' → sameLinesAndDevice (runLineOps (trace k s) s) s'

/-- From R165: when the host keeps the required order, no run is refused, whatever it offers and however long it is; directly
after reset that is `INIT` before the first `WRB`. -/
def Obligations.RequiredOrderIsNeverRefused : Prop :=
  (∀ s : State, hostKeepsOrder s = true → NeverRefused s) ∧
  (∀ (c : ResetChoice) (ws : List CmdWord), respectsInitOrder false (ws.map decode) = true →
    NeverRefused ((State.resetAt c).setOffers ws))

/-- From R166: the first-frame hazard. If ShiftClock is not low at acceptance the first bit may be lost, with the stale `T[7]` in
its place, and no other stage is affected; every completed frame leaves ShiftClock low, so the same byte sent again is exact. -/
def Obligations.FirstFrameHazard : Prop :=
  ∀ (o : Order) (v : Byte) (s : State), s.phase = .idle → s.cfg = ⟨true, true, true⟩ →
    ∃ t u, perform (writeByte o v) s = .next t ∧ t.out.shcp = .low ∧
      (∀ k : Fin 8, k ≠ 0 → t.q.get k = tri (sentBit o v k)) ∧
      (t.q.get 0 = tri (sentBit o v 0) ∨ (s.out.shcp ≠ .low ∧ t.q.get 0 = s.t.get 7)) ∧
      (s.out.shcp = .high → t.q.get 0 = s.t.get 7) ∧
      perform (writeByte o v) t = .next u ∧ (∀ k : Fin 8, u.q.get k = tri (sentBit o v k))

/-- R174: no bleed-through. After two frames in a row, from any levels and any contents, `T` and `Q` hold the second frame's
bits and nothing else, and the second frame's rising edges are eight and one. -/
def Obligations.NoBleedThrough : Prop :=
  ∀ (o o' : Order) (v v' : Byte) (s : State), s.phase = .idle → s.cfg = ⟨true, true, true⟩ →
    ∃ t t₁ u, perform (writeByte o v) s = .next t ∧ exec (writeByte o' v') t = .next t₁ ∧
      perform (writeByte o' v') t = .next u ∧ u.t = sentStages o' v' ∧ u.q = sentStages o' v' ∧
      risingEdges .shcp 42 t₁ = 8 ∧ risingEdges .stcp 42 t₁ = 1

/-- From R176: the waits of a command and the least time they take; the three counts and `T_WAIT` stay open. -/
def Obligations.WaitsOfACommand : Prop :=
  ∀ s : State, s.phase = .idle →
    ((commandTrace .init s).length = 3 ∧ waitTime (commandTrace .init s) = 0) ∧
    (∀ (o : Order) (v : Byte), s.cfg = ⟨true, true, true⟩ →
      (commandTrace (writeByte o v) s).count .busyWaitShort = 8 * Config.wClk + Config.wSettle + Config.wHold ∧
      waitTime (commandTrace (writeByte o v) s) =
        (8 * Config.wClk + Config.wSettle + Config.wHold) * Config.tWait.val)

/-! ### 10_state.md: what is no state of the machine -/

/-- From R26 with R22: the host's list and the answers to draws are input. Two points of a run with the same state of the
machine, the same word on the port and the same answer to the next draw step alike, whatever else the outside holds; and a step
does no more to the outside than take the word at `Idle` and ask a draw. That the two ride along in `State` is the model's
choice (notes/assumptions 1 and 2). -/
def Obligations.TheOutsideIsOnlyInput : Prop :=
  ∀ s₁ s₂ : State, s₁.toMachineState = s₂.toMachineState → offeredWord s₁ = offeredWord s₂ →
    Config.edgeDraw s₁.draws = Config.edgeDraw s₂.draws →
    stepEvents s₁ = stepEvents s₂ ∧
    ((∃ r, step s₁ = .refused r ∧ step s₂ = .refused r) ∨
      ∃ t₁ t₂, step s₁ = .next t₁ ∧ step s₂ = .next t₂ ∧ t₁.toMachineState = t₂.toMachineState ∧
        (s₁.phase = .idle → t₁.offers = s₁.offers.tail ∧ t₂.offers = s₂.offers.tail) ∧
        (s₁.phase ≠ .idle → t₁.offers = s₁.offers ∧ t₂.offers = s₂.offers) ∧
        ∃ d, d ≤ 1 ∧ t₁.draws = s₁.draws + d ∧ t₂.draws = s₂.draws + d)

/-- From R26 with R10, R22, R90: a step of the package is a step of the machine, whose state is R10's alone, on the word on the
port and the answer to the next draw; beside it the word is gone from the host's list if the engine looked at the port, and a
draw that was asked is counted (notes/assumptions 1, 2 and 4). A run, likewise, is a run of the machine on a list of inputs. -/
def Obligations.StepIsTheMachinesStep : Prop :=
  (∀ s : State, step s =
    match s.toMachineState.step { cmd := s.offers.head?, answer := Config.edgeDraw s.draws } with
    | .next m => .next
        { toMachineState := m
          offers := if s.phase = .idle then s.offers.tail else s.offers
          draws := if s.stepAsksDraw then s.draws + 1 else s.draws }
    | .fault r => .fault r
    | .refused r => .refused r) ∧
  (∀ (k : Nat) (s s' : State), runSteps k s = .next s' → ∃ inputs : List MachineInput, inputs.length = k ∧
    s.toMachineState.run inputs = .next s'.toMachineState) ∧
  (∀ (k : Nat) (s : State) (r : Refusal), runSteps k s = .refused r → ∃ inputs : List MachineInput,
    inputs.length ≤ k ∧ s.toMachineState.run inputs = .refused r)

/-- From R22, R66 and R143: the machine reads the port at `Idle` alone, and the answer to a draw only in a step that asks one,
which sets a clock line high from level `U`. (The level of a line that is no output is `U`: R20, notes/assumptions 9.) -/
def Obligations.InputIsReadOnlyWhereAsked : Prop :=
  (∀ (m : MachineState) (c c' : Option CmdWord) (a : Bool), m.phase ≠ .idle →
    m.step ⟨c, a⟩ = m.step ⟨c', a⟩ ∧ ∃ m', m.step ⟨c, a⟩ = .next m') ∧
  (∀ (m : MachineState) (c : Option CmdWord) (a a' : Bool), m.stepAsksDraw = false → m.step ⟨c, a⟩ = m.step ⟨c, a'⟩) ∧
  (∀ m : MachineState, m.stepAsksDraw = true ↔
    (m.phase = .pulseClockHigh ∧ m.lineLevel .shcp = .u) ∨ (m.phase = .pulseLatch ∧ m.lineLevel .stcp = .u))
end

