-- ==== Sys2Proof/Laws/Decode.lean ====
section
/-! SUPPORT. The fields of an encoded word, and the pins of the lines. -/

namespace Sys2Proof

theorem getLsbD_encode_wrbMsf (v : Byte) (k : Nat) :
    (encode (.wrbMsf v)).getLsbD k = (decide (k = 9) || (decide (k < 8) && v.getLsbD k)) := by
  have h : encode (.wrbMsf v) = 0x200#10 ||| v.zeroExtend 10 := by
    apply BitVec.add_eq_or_of_and_eq_zero
    ext i hi
    have : i < 10 := hi
    interval_cases i <;> simp
  rw [h]
  rcases Nat.lt_or_ge k 10 with hk | hk
  · interval_cases k <;> simp
  · simp [hk, Nat.not_lt.2 (by omega : 8 ≤ k)]; omega

theorem getLsbD_encode_wrbLsf (v : Byte) (k : Nat) :
    (encode (.wrbLsf v)).getLsbD k = (decide (k = 9) || decide (k = 8) || (decide (k < 8) && v.getLsbD k)) := by
  have h : encode (.wrbLsf v) = 0x300#10 ||| v.zeroExtend 10 := by
    apply BitVec.add_eq_or_of_and_eq_zero
    ext i hi
    have : i < 10 := hi
    interval_cases i <;> simp
  rw [h]
  rcases Nat.lt_or_ge k 10 with hk | hk
  · interval_cases k <;> simp
  · simp [hk, Nat.not_lt.2 (by omega : 8 ≤ k)]; omega

theorem getLsbD_valueField (w : CmdWord) (k : Nat) :
    (valueField w).getLsbD k = (decide (k < 8) && w.getLsbD k) := by
  simp [valueField]

/-- The decoder by the two bits it looks at (R61, R65). -/
theorem decode_init {w : CmdWord} (h : w.getLsbD 9 = false) : decode w = .init := by
  rw [decode, opField, h]
  rfl

theorem decode_wrbMsf {w : CmdWord} (h9 : w.getLsbD 9 = true) (h8 : w.getLsbD 8 = false) :
    decode w = .wrbMsf (valueField w) := by
  rw [decode, opField, h9, ordField, h8]
  rfl

theorem decode_wrbLsf {w : CmdWord} (h9 : w.getLsbD 9 = true) (h8 : w.getLsbD 8 = true) :
    decode w = .wrbLsf (valueField w) := by
  rw [decode, opField, h9, ordField, h8]
  rfl

/-- The `INIT` row looks at bit 9 alone. -/
theorem selects_init (w : CmdWord) : (w &&& 0x200#10 = 0x000#10) ↔ w.getLsbD 9 = false := by
  constructor
  · intro h
    simpa using congrArg (fun x => x.getLsbD 9) h
  · intro h
    rw [BitVec.getLsbD_eq_getElem (by decide)] at h
    ext i hi
    interval_cases i <;> simp [h]

/-- The two `WRB` rows look at bits 9 and 8. -/
theorem selects_wrb (w : CmdWord) (b : Bool) :
    (w &&& 0x300#10 = if b then 0x300#10 else 0x200#10) ↔ w.getLsbD 9 = true ∧ w.getLsbD 8 = b := by
  constructor
  · intro h
    have h9 := congrArg (fun x => x.getLsbD 9) h
    have h8 := congrArg (fun x => x.getLsbD 8) h
    cases b <;> simp at h9 h8 <;> exact ⟨by simpa using h9, by simpa using h8⟩
  · rintro ⟨h9, h8⟩
    rw [BitVec.getLsbD_eq_getElem (by decide)] at h9 h8
    ext i hi
    cases b <;> interval_cases i <;> simp [h9, h8]

/-- A number that fits ten bits decodes by `decode`. -/
theorem decodeNat_of_lt {w : Nat} (h : w < 1024) : decodeNat w = .ok (decode (BitVec.ofNat 10 w)) := by
  simp [decodeNat, commandWidth, h]

/-- The three lines are three distinct pins (R43, R164). -/
theorem pinMap_injective : Function.Injective Config.pinMap := by
  intro a b h
  cases a <;> cases b <;> first | rfl | exact absurd (Config.pinPermutation.injective h) (by decide)

end Sys2Proof
end

