-- ==== Sys2Proof/Laws/State.lean ====
section
/-! SUPPORT. One lemma per field per register write, and the laws of per-line registers and stages, so that no
later proof unfolds a record update. -/

namespace Sys2Proof.Machine

/-! ### `setPhase` -/

@[simp] theorem State.setPhase_phase (s : State) (p : Phase) : (s.setPhase p).phase = p := rfl
@[simp] theorem State.setPhase_cnt (s : State) (p : Phase) : (s.setPhase p).cnt = s.cnt := rfl
@[simp] theorem State.setPhase_val (s : State) (p : Phase) : (s.setPhase p).val = s.val := rfl
@[simp] theorem State.setPhase_ord (s : State) (p : Phase) : (s.setPhase p).ord = s.ord := rfl
@[simp] theorem State.setPhase_bit (s : State) (p : Phase) : (s.setPhase p).bit = s.bit := rfl
@[simp] theorem State.setPhase_cfg (s : State) (p : Phase) : (s.setPhase p).cfg = s.cfg := rfl
@[simp] theorem State.setPhase_out (s : State) (p : Phase) : (s.setPhase p).out = s.out := rfl
@[simp] theorem State.setPhase_t (s : State) (p : Phase) : (s.setPhase p).t = s.t := rfl
@[simp] theorem State.setPhase_q (s : State) (p : Phase) : (s.setPhase p).q = s.q := rfl
@[simp] theorem State.setPhase_offers (s : State) (p : Phase) : (s.setPhase p).offers = s.offers := rfl
@[simp] theorem State.setPhase_draws (s : State) (p : Phase) : (s.setPhase p).draws = s.draws := rfl

/-! ### `setCnt` -/

@[simp] theorem State.setCnt_phase (s : State) (c : Count) : (s.setCnt c).phase = s.phase := rfl
@[simp] theorem State.setCnt_cnt (s : State) (c : Count) : (s.setCnt c).cnt = c := rfl
@[simp] theorem State.setCnt_val (s : State) (c : Count) : (s.setCnt c).val = s.val := rfl
@[simp] theorem State.setCnt_ord (s : State) (c : Count) : (s.setCnt c).ord = s.ord := rfl
@[simp] theorem State.setCnt_bit (s : State) (c : Count) : (s.setCnt c).bit = s.bit := rfl
@[simp] theorem State.setCnt_cfg (s : State) (c : Count) : (s.setCnt c).cfg = s.cfg := rfl
@[simp] theorem State.setCnt_out (s : State) (c : Count) : (s.setCnt c).out = s.out := rfl
@[simp] theorem State.setCnt_t (s : State) (c : Count) : (s.setCnt c).t = s.t := rfl
@[simp] theorem State.setCnt_q (s : State) (c : Count) : (s.setCnt c).q = s.q := rfl
@[simp] theorem State.setCnt_offers (s : State) (c : Count) : (s.setCnt c).offers = s.offers := rfl
@[simp] theorem State.setCnt_draws (s : State) (c : Count) : (s.setCnt c).draws = s.draws := rfl

/-! ### `setVal` -/

@[simp] theorem State.setVal_phase (s : State) (v : Byte) : (s.setVal v).phase = s.phase := rfl
@[simp] theorem State.setVal_cnt (s : State) (v : Byte) : (s.setVal v).cnt = s.cnt := rfl
@[simp] theorem State.setVal_val (s : State) (v : Byte) : (s.setVal v).val = v := rfl
@[simp] theorem State.setVal_ord (s : State) (v : Byte) : (s.setVal v).ord = s.ord := rfl
@[simp] theorem State.setVal_bit (s : State) (v : Byte) : (s.setVal v).bit = s.bit := rfl
@[simp] theorem State.setVal_cfg (s : State) (v : Byte) : (s.setVal v).cfg = s.cfg := rfl
@[simp] theorem State.setVal_out (s : State) (v : Byte) : (s.setVal v).out = s.out := rfl
@[simp] theorem State.setVal_t (s : State) (v : Byte) : (s.setVal v).t = s.t := rfl
@[simp] theorem State.setVal_q (s : State) (v : Byte) : (s.setVal v).q = s.q := rfl
@[simp] theorem State.setVal_offers (s : State) (v : Byte) : (s.setVal v).offers = s.offers := rfl
@[simp] theorem State.setVal_draws (s : State) (v : Byte) : (s.setVal v).draws = s.draws := rfl

/-! ### `setOrd` -/

@[simp] theorem State.setOrd_phase (s : State) (o : Order) : (s.setOrd o).phase = s.phase := rfl
@[simp] theorem State.setOrd_cnt (s : State) (o : Order) : (s.setOrd o).cnt = s.cnt := rfl
@[simp] theorem State.setOrd_val (s : State) (o : Order) : (s.setOrd o).val = s.val := rfl
@[simp] theorem State.setOrd_ord (s : State) (o : Order) : (s.setOrd o).ord = o := rfl
@[simp] theorem State.setOrd_bit (s : State) (o : Order) : (s.setOrd o).bit = s.bit := rfl
@[simp] theorem State.setOrd_cfg (s : State) (o : Order) : (s.setOrd o).cfg = s.cfg := rfl
@[simp] theorem State.setOrd_out (s : State) (o : Order) : (s.setOrd o).out = s.out := rfl
@[simp] theorem State.setOrd_t (s : State) (o : Order) : (s.setOrd o).t = s.t := rfl
@[simp] theorem State.setOrd_q (s : State) (o : Order) : (s.setOrd o).q = s.q := rfl
@[simp] theorem State.setOrd_offers (s : State) (o : Order) : (s.setOrd o).offers = s.offers := rfl
@[simp] theorem State.setOrd_draws (s : State) (o : Order) : (s.setOrd o).draws = s.draws := rfl

/-! ### `setBit` -/

@[simp] theorem State.setBit_phase (s : State) (b : Bool) : (s.setBit b).phase = s.phase := rfl
@[simp] theorem State.setBit_cnt (s : State) (b : Bool) : (s.setBit b).cnt = s.cnt := rfl
@[simp] theorem State.setBit_val (s : State) (b : Bool) : (s.setBit b).val = s.val := rfl
@[simp] theorem State.setBit_ord (s : State) (b : Bool) : (s.setBit b).ord = s.ord := rfl
@[simp] theorem State.setBit_bit (s : State) (b : Bool) : (s.setBit b).bit = b := rfl
@[simp] theorem State.setBit_cfg (s : State) (b : Bool) : (s.setBit b).cfg = s.cfg := rfl
@[simp] theorem State.setBit_out (s : State) (b : Bool) : (s.setBit b).out = s.out := rfl
@[simp] theorem State.setBit_t (s : State) (b : Bool) : (s.setBit b).t = s.t := rfl
@[simp] theorem State.setBit_q (s : State) (b : Bool) : (s.setBit b).q = s.q := rfl
@[simp] theorem State.setBit_offers (s : State) (b : Bool) : (s.setBit b).offers = s.offers := rfl
@[simp] theorem State.setBit_draws (s : State) (b : Bool) : (s.setBit b).draws = s.draws := rfl

/-! ### `setCfg` -/

@[simp] theorem State.setCfg_phase (s : State) (c : Lines Bool) : (s.setCfg c).phase = s.phase := rfl
@[simp] theorem State.setCfg_cnt (s : State) (c : Lines Bool) : (s.setCfg c).cnt = s.cnt := rfl
@[simp] theorem State.setCfg_val (s : State) (c : Lines Bool) : (s.setCfg c).val = s.val := rfl
@[simp] theorem State.setCfg_ord (s : State) (c : Lines Bool) : (s.setCfg c).ord = s.ord := rfl
@[simp] theorem State.setCfg_bit (s : State) (c : Lines Bool) : (s.setCfg c).bit = s.bit := rfl
@[simp] theorem State.setCfg_cfg (s : State) (c : Lines Bool) : (s.setCfg c).cfg = c := rfl
@[simp] theorem State.setCfg_out (s : State) (c : Lines Bool) : (s.setCfg c).out = s.out := rfl
@[simp] theorem State.setCfg_t (s : State) (c : Lines Bool) : (s.setCfg c).t = s.t := rfl
@[simp] theorem State.setCfg_q (s : State) (c : Lines Bool) : (s.setCfg c).q = s.q := rfl
@[simp] theorem State.setCfg_offers (s : State) (c : Lines Bool) : (s.setCfg c).offers = s.offers := rfl
@[simp] theorem State.setCfg_draws (s : State) (c : Lines Bool) : (s.setCfg c).draws = s.draws := rfl

/-! ### `setOut` -/

@[simp] theorem State.setOut_phase (s : State) (l : Lines Level) : (s.setOut l).phase = s.phase := rfl
@[simp] theorem State.setOut_cnt (s : State) (l : Lines Level) : (s.setOut l).cnt = s.cnt := rfl
@[simp] theorem State.setOut_val (s : State) (l : Lines Level) : (s.setOut l).val = s.val := rfl
@[simp] theorem State.setOut_ord (s : State) (l : Lines Level) : (s.setOut l).ord = s.ord := rfl
@[simp] theorem State.setOut_bit (s : State) (l : Lines Level) : (s.setOut l).bit = s.bit := rfl
@[simp] theorem State.setOut_cfg (s : State) (l : Lines Level) : (s.setOut l).cfg = s.cfg := rfl
@[simp] theorem State.setOut_out (s : State) (l : Lines Level) : (s.setOut l).out = l := rfl
@[simp] theorem State.setOut_t (s : State) (l : Lines Level) : (s.setOut l).t = s.t := rfl
@[simp] theorem State.setOut_q (s : State) (l : Lines Level) : (s.setOut l).q = s.q := rfl
@[simp] theorem State.setOut_offers (s : State) (l : Lines Level) : (s.setOut l).offers = s.offers := rfl
@[simp] theorem State.setOut_draws (s : State) (l : Lines Level) : (s.setOut l).draws = s.draws := rfl

/-! ### `setT` -/

@[simp] theorem State.setT_phase (s : State) (r : Stages) : (s.setT r).phase = s.phase := rfl
@[simp] theorem State.setT_cnt (s : State) (r : Stages) : (s.setT r).cnt = s.cnt := rfl
@[simp] theorem State.setT_val (s : State) (r : Stages) : (s.setT r).val = s.val := rfl
@[simp] theorem State.setT_ord (s : State) (r : Stages) : (s.setT r).ord = s.ord := rfl
@[simp] theorem State.setT_bit (s : State) (r : Stages) : (s.setT r).bit = s.bit := rfl
@[simp] theorem State.setT_cfg (s : State) (r : Stages) : (s.setT r).cfg = s.cfg := rfl
@[simp] theorem State.setT_out (s : State) (r : Stages) : (s.setT r).out = s.out := rfl
@[simp] theorem State.setT_t (s : State) (r : Stages) : (s.setT r).t = r := rfl
@[simp] theorem State.setT_q (s : State) (r : Stages) : (s.setT r).q = s.q := rfl
@[simp] theorem State.setT_offers (s : State) (r : Stages) : (s.setT r).offers = s.offers := rfl
@[simp] theorem State.setT_draws (s : State) (r : Stages) : (s.setT r).draws = s.draws := rfl

/-! ### `setQ` -/

@[simp] theorem State.setQ_phase (s : State) (r : Stages) : (s.setQ r).phase = s.phase := rfl
@[simp] theorem State.setQ_cnt (s : State) (r : Stages) : (s.setQ r).cnt = s.cnt := rfl
@[simp] theorem State.setQ_val (s : State) (r : Stages) : (s.setQ r).val = s.val := rfl
@[simp] theorem State.setQ_ord (s : State) (r : Stages) : (s.setQ r).ord = s.ord := rfl
@[simp] theorem State.setQ_bit (s : State) (r : Stages) : (s.setQ r).bit = s.bit := rfl
@[simp] theorem State.setQ_cfg (s : State) (r : Stages) : (s.setQ r).cfg = s.cfg := rfl
@[simp] theorem State.setQ_out (s : State) (r : Stages) : (s.setQ r).out = s.out := rfl
@[simp] theorem State.setQ_t (s : State) (r : Stages) : (s.setQ r).t = s.t := rfl
@[simp] theorem State.setQ_q (s : State) (r : Stages) : (s.setQ r).q = r := rfl
@[simp] theorem State.setQ_offers (s : State) (r : Stages) : (s.setQ r).offers = s.offers := rfl
@[simp] theorem State.setQ_draws (s : State) (r : Stages) : (s.setQ r).draws = s.draws := rfl

/-! ### `setOffers` -/

@[simp] theorem State.setOffers_phase (s : State) (w : List CmdWord) : (s.setOffers w).phase = s.phase := rfl
@[simp] theorem State.setOffers_cnt (s : State) (w : List CmdWord) : (s.setOffers w).cnt = s.cnt := rfl
@[simp] theorem State.setOffers_val (s : State) (w : List CmdWord) : (s.setOffers w).val = s.val := rfl
@[simp] theorem State.setOffers_ord (s : State) (w : List CmdWord) : (s.setOffers w).ord = s.ord := rfl
@[simp] theorem State.setOffers_bit (s : State) (w : List CmdWord) : (s.setOffers w).bit = s.bit := rfl
@[simp] theorem State.setOffers_cfg (s : State) (w : List CmdWord) : (s.setOffers w).cfg = s.cfg := rfl
@[simp] theorem State.setOffers_out (s : State) (w : List CmdWord) : (s.setOffers w).out = s.out := rfl
@[simp] theorem State.setOffers_t (s : State) (w : List CmdWord) : (s.setOffers w).t = s.t := rfl
@[simp] theorem State.setOffers_q (s : State) (w : List CmdWord) : (s.setOffers w).q = s.q := rfl
@[simp] theorem State.setOffers_offers (s : State) (w : List CmdWord) : (s.setOffers w).offers = w := rfl
@[simp] theorem State.setOffers_draws (s : State) (w : List CmdWord) : (s.setOffers w).draws = s.draws := rfl

/-! ### `setDraws` -/

@[simp] theorem State.setDraws_phase (s : State) (n : Nat) : (s.setDraws n).phase = s.phase := rfl
@[simp] theorem State.setDraws_cnt (s : State) (n : Nat) : (s.setDraws n).cnt = s.cnt := rfl
@[simp] theorem State.setDraws_val (s : State) (n : Nat) : (s.setDraws n).val = s.val := rfl
@[simp] theorem State.setDraws_ord (s : State) (n : Nat) : (s.setDraws n).ord = s.ord := rfl
@[simp] theorem State.setDraws_bit (s : State) (n : Nat) : (s.setDraws n).bit = s.bit := rfl
@[simp] theorem State.setDraws_cfg (s : State) (n : Nat) : (s.setDraws n).cfg = s.cfg := rfl
@[simp] theorem State.setDraws_out (s : State) (n : Nat) : (s.setDraws n).out = s.out := rfl
@[simp] theorem State.setDraws_t (s : State) (n : Nat) : (s.setDraws n).t = s.t := rfl
@[simp] theorem State.setDraws_q (s : State) (n : Nat) : (s.setDraws n).q = s.q := rfl
@[simp] theorem State.setDraws_offers (s : State) (n : Nat) : (s.setDraws n).offers = s.offers := rfl
@[simp] theorem State.setDraws_draws (s : State) (n : Nat) : (s.setDraws n).draws = n := rfl

/-! ### The outside is no part of the machine (R26) -/

@[simp] theorem State.setOffers_toMachineState (s : State) (w : List CmdWord) :
    (s.setOffers w).toMachineState = s.toMachineState := rfl
@[simp] theorem State.setDraws_toMachineState (s : State) (n : Nat) :
    (s.setDraws n).toMachineState = s.toMachineState := rfl

@[simp] theorem State.withMachine_toMachineState (s : State) (m : MachineState) :
    (s.withMachine m).toMachineState = m := rfl
@[simp] theorem State.withMachine_offers (s : State) (m : MachineState) : (s.withMachine m).offers = s.offers := rfl
@[simp] theorem State.withMachine_draws (s : State) (m : MachineState) : (s.withMachine m).draws = s.draws := rfl
@[simp] theorem State.withMachine_self (s : State) : s.withMachine s.toMachineState = s := rfl
@[simp] theorem State.lift_next (s : State) (m : MachineState) : s.lift (.next m) = .next (s.withMachine m) := rfl
@[simp] theorem State.lift_refused (s : State) (r : Refusal) : s.lift (.refused r) = .refused r := rfl

/-! ### Per-line registers -/

@[simp] theorem Lines.get_set_same {α : Type} (l : Lines α) (n : Line) (a : α) : (l.set n a).get n = a := by
  cases n <;> rfl

@[simp] theorem Lines.get_set_other {α : Type} (l : Lines α) (n m : Line) (a : α) (h : m ≠ n) :
    (l.set n a).get m = l.get m := by
  cases n <;> cases m <;> first | rfl | exact absurd rfl h

@[simp] theorem Lines.get_data {α : Type} (l : Lines α) : l.get .data = l.data := rfl
@[simp] theorem Lines.get_shcp {α : Type} (l : Lines α) : l.get .shcp = l.shcp := rfl
@[simp] theorem Lines.get_stcp {α : Type} (l : Lines α) : l.get .stcp = l.stcp := rfl
@[simp] theorem Lines.set_data {α : Type} (l : Lines α) (a : α) : l.set .data a = ⟨a, l.shcp, l.stcp⟩ := rfl
@[simp] theorem Lines.set_shcp {α : Type} (l : Lines α) (a : α) : l.set .shcp a = ⟨l.data, a, l.stcp⟩ := rfl
@[simp] theorem Lines.set_stcp {α : Type} (l : Lines α) (a : α) : l.set .stcp a = ⟨l.data, l.shcp, a⟩ := rfl

theorem allOutputs_iff (c : Lines Bool) : allOutputs c = true ↔ ∀ n, c.get n = true := by
  constructor
  · intro h n
    simp only [allOutputs, Bool.and_eq_true] at h
    cases n <;> simp [h]
  · intro h
    simp [allOutputs, ← Lines.get_data, ← Lines.get_shcp, ← Lines.get_stcp, h]

theorem eq_of_allOutputs {c : Lines Bool} (h : allOutputs c = true) : c = ⟨true, true, true⟩ := by
  obtain ⟨d, k, l⟩ := c
  simpa [allOutputs, and_assoc] using h

/-! ### Stages -/

theorem Stages.ext_get {r₁ r₂ : Stages} (h : ∀ k, r₁.get k = r₂.get k) : r₁ = r₂ := by
  have h0 := h 0; have h1 := h 1; have h2 := h 2; have h3 := h 3
  have h4 := h 4; have h5 := h 5; have h6 := h 6; have h7 := h 7
  cases r₁; cases r₂
  simp_all [Stages.get]

@[simp] theorem Stages.get_ofFn (f : Fin 8 → TriBit) (k : Fin 8) : (Stages.ofFn f).get k = f k := by
  fin_cases k <;> rfl

theorem Stages.get_shiftIn_last (r : Stages) (b : TriBit) : (r.shiftIn b).get 7 = b := rfl

theorem Stages.get_shiftIn (r : Stages) (b : TriBit) (k : Fin 7) :
    (r.shiftIn b).get k.castSucc = r.get k.succ := by
  fin_cases k <;> rfl

@[simp] theorem bit3_lvl (b : Bool) : bit3 (lvl b) = tri b := by cases b <;> rfl

end Sys2Proof.Machine
end

