-- ==== Sys2Proof/Laws/Ops.lean ====
section
/-! SUPPORT. What each shared operation can do: its effect, and what it leaves alone. -/

namespace Sys2Proof.Machine

theorem lineLevel_of_configured (s : State) (n : Line) (h : s.cfg.get n = true) : s.lineLevel n = s.out.get n := by
  simp [MachineState.lineLevel, h]

theorem lineLevel_of_unconfigured (s : State) (n : Line) (h : s.cfg.get n = false) : s.lineLevel n = .u := by
  simp [MachineState.lineLevel, h]

theorem lineLevel_of_allOutputs (s : State) (n : Line) (h : allOutputs s.cfg = true) :
    s.lineLevel n = s.out.get n :=
  lineLevel_of_configured s n ((allOutputs_iff _).1 h n)

/-- Fields a line operation never writes: the sequencer's registers, the direction of a line but by
`configureAsOutput`, and what the host will offer. -/
structure LineFrame (s s' : State) : Prop where
  phase : s'.phase = s.phase
  cnt : s'.cnt = s.cnt
  val : s'.val = s.val
  ord : s'.ord = s.ord
  bit : s'.bit = s.bit
  offers : s'.offers = s.offers

theorem LineFrame.refl (s : State) : LineFrame s s := ⟨rfl, rfl, rfl, rfl, rfl, rfl⟩

theorem LineFrame.trans {s₁ s₂ s₃ : State} (h : LineFrame s₁ s₂) (k : LineFrame s₂ s₃) : LineFrame s₁ s₃ :=
  ⟨k.phase.trans h.phase, k.cnt.trans h.cnt, k.val.trans h.val, k.ord.trans h.ord, k.bit.trans h.bit,
    k.offers.trans h.offers⟩

/-- The three levels a clock line can have before a `setHigh`, and what each makes of it (R122). -/
theorem risingEdge_low (n : Line) (s : State) (h : s.lineLevel n = .low) :
    risingEdge n s = true ∧ drawsAfter n s = s.draws := by
  simp [risingEdge, MachineState.risingEdge, drawsAfter, h]

theorem risingEdge_high (n : Line) (s : State) (h : s.lineLevel n = .high) :
    risingEdge n s = false ∧ drawsAfter n s = s.draws := by
  simp [risingEdge, MachineState.risingEdge, drawsAfter, h]

theorem risingEdge_undetermined (n : Line) (s : State) (h : s.lineLevel n = .u) :
    risingEdge n s = Config.edgeDraw s.draws ∧ drawsAfter n s = s.draws + 1 := by
  simp [risingEdge, MachineState.risingEdge, drawsAfter, h]

/-! ### What a line operation writes of the machine, and what not -/

@[simp] theorem MachineState.setHigh_phase (n : Line) (a : Bool) (m : MachineState) :
    (m.setHigh n a).phase = m.phase := by cases n <;> rfl
@[simp] theorem MachineState.setHigh_cnt (n : Line) (a : Bool) (m : MachineState) :
    (m.setHigh n a).cnt = m.cnt := by cases n <;> rfl
@[simp] theorem MachineState.setHigh_val (n : Line) (a : Bool) (m : MachineState) :
    (m.setHigh n a).val = m.val := by cases n <;> rfl
@[simp] theorem MachineState.setHigh_ord (n : Line) (a : Bool) (m : MachineState) :
    (m.setHigh n a).ord = m.ord := by cases n <;> rfl
@[simp] theorem MachineState.setHigh_bit (n : Line) (a : Bool) (m : MachineState) :
    (m.setHigh n a).bit = m.bit := by cases n <;> rfl
@[simp] theorem MachineState.setHigh_cfg (n : Line) (a : Bool) (m : MachineState) :
    (m.setHigh n a).cfg = m.cfg := by cases n <;> rfl
@[simp] theorem MachineState.setHigh_out (n : Line) (a : Bool) (m : MachineState) :
    (m.setHigh n a).out = m.out.set n .high := by cases n <;> rfl
@[simp] theorem MachineState.setLow_eq (n : Line) (m : MachineState) :
    m.setLow n = { m with out := m.out.set n .low } := rfl

@[simp] theorem setHigh_cfg (n : Line) (s : State) : (setHigh n s).cfg = s.cfg := by cases n <;> rfl
@[simp] theorem setHigh_out (n : Line) (s : State) : (setHigh n s).out = s.out.set n .high := by cases n <;> rfl
@[simp] theorem setLow_cfg (n : Line) (s : State) : (setLow n s).cfg = s.cfg := rfl
@[simp] theorem setLow_out (n : Line) (s : State) : (setLow n s).out = s.out.set n .low := rfl

/-- Everything a `setHigh` of a clock line does at a point of a run (R111, R122 to R124). -/
theorem setHigh_shcp (s : State) : setHigh .shcp s =
    { s with
      out := ⟨s.out.data, .high, s.out.stcp⟩
      t := if risingEdge .shcp s then s.t.shiftIn (bit3 (s.lineLevel .data)) else s.t
      draws := drawsAfter .shcp s } := rfl
theorem setHigh_stcp (s : State) : setHigh .stcp s =
    { s with
      out := ⟨s.out.data, s.out.shcp, .high⟩
      q := if risingEdge .stcp s then s.t else s.q
      draws := drawsAfter .stcp s } := rfl

/-- The effect of `setHigh(SHCP)` on the chain and on the count of draws, from a configured line. -/
theorem setHigh_shcp_t (s : State) :
    (setHigh .shcp s).t = if risingEdge .shcp s then s.shiftedChain else s.t := rfl
theorem setHigh_shcp_draws (s : State) : (setHigh .shcp s).draws = drawsAfter .shcp s := rfl
theorem setHigh_stcp_q (s : State) : (setHigh .stcp s).q = if risingEdge .stcp s then s.t else s.q := rfl
theorem setHigh_stcp_draws (s : State) : (setHigh .stcp s).draws = drawsAfter .stcp s := rfl

theorem setHigh_lineFrame (n : Line) (s : State) : LineFrame s (setHigh n s) := by
  cases n <;> exact ⟨rfl, rfl, rfl, rfl, rfl, rfl⟩

/-- No line operation writes a register of the sequencer or the host's list. -/
theorem runLineOp_lineFrame (op : LineOp) (s : State) : LineFrame s (runLineOp op s) := by
  cases op with
  | configureAsOutput n => exact ⟨rfl, rfl, rfl, rfl, rfl, rfl⟩
  | setHigh n => exact setHigh_lineFrame n s
  | setLow n => exact ⟨rfl, rfl, rfl, rfl, rfl, rfl⟩
  | busyWaitShort => exact LineFrame.refl s

/-- `T` can change only by `setHigh(SHCP)`, `Q` only by `setHigh(STCP)` (R125). -/
theorem runLineOp_t (op : LineOp) (s : State) (h : op ≠ .setHigh .shcp) : (runLineOp op s).t = s.t := by
  cases op with
  | setHigh n => cases n <;> first | rfl | exact absurd rfl h
  | configureAsOutput n => rfl
  | setLow n => rfl
  | busyWaitShort => rfl

theorem runLineOp_q (op : LineOp) (s : State) (h : op ≠ .setHigh .stcp) : (runLineOp op s).q = s.q := by
  cases op with
  | setHigh n => cases n <;> first | rfl | exact absurd rfl h
  | configureAsOutput n => rfl
  | setLow n => rfl
  | busyWaitShort => rfl

/-- Driving Data changes `OUT[DATA]` and nothing else (R98, R125). -/
@[simp] theorem MachineState.driveData_eq (b : Bool) (m : MachineState) :
    m.driveData b = { m with out := ⟨lvl b, m.out.shcp, m.out.stcp⟩ } := by
  cases b <;> rfl

/-- Driving Data is the line operation its event records. -/
theorem driveData_event (b : Bool) (s : State) :
    runLineOp (if b then .setHigh .data else .setLow .data) s = s.withMachine (s.toMachineState.driveData b) := by
  cases b <;> rfl

@[simp] theorem runLineOps_nil (s : State) : runLineOps [] s = s := rfl
@[simp] theorem runLineOps_cons (op : LineOp) (ops : List LineOp) (s : State) :
    runLineOps (op :: ops) s = runLineOps ops (runLineOp op s) := rfl

theorem runLineOps_append (as bs : List LineOp) (s : State) :
    runLineOps (as ++ bs) s = runLineOps bs (runLineOps as s) := by
  induction as generalizing s with
  | nil => rfl
  | cons a as ih => exact ih (runLineOp a s)

theorem runLineOps_lineFrame (ops : List LineOp) (s : State) : LineFrame s (runLineOps ops s) := by
  induction ops generalizing s with
  | nil => exact LineFrame.refl s
  | cons op ops ih => exact (runLineOp_lineFrame op s).trans (ih (runLineOp op s))

end Sys2Proof.Machine
end

