-- ==== Sys2Proof/Laws/Step.lean ====
section
/-! SUPPORT. What the meanings and a step can do, said once; and the laws of a run and of its trace. -/

namespace Sys2Proof.Machine

/-! ### The meanings -/

theorem execInit_idle (s : State) (h : s.phase = .idle) : execInit s = .next (s.setPhase .configure) := by
  simp [execInit, MachineState.acceptInit, h]; rfl

theorem acceptFrame_idle (o : Order) (v : Byte) (s : State) (h : s.phase = .idle) (c : allOutputs s.cfg = true) :
    acceptFrame o v s = .next (captureFrame o v s) := by
  simp [acceptFrame, MachineState.acceptFrame, captureFrame, h, c]

theorem acceptFrame_unconfigured (o : Order) (v : Byte) (s : State) (h : s.phase = .idle)
    (c : allOutputs s.cfg = false) : acceptFrame o v s = .refused .wrbBeforeInit := by
  simp [acceptFrame, MachineState.acceptFrame, h, c]

/-- A command offered while the engine is busy does nothing (R66). -/
theorem exec_busy (i : Instr) (s : State) (h : s.phase ≠ .idle) : exec i s = .next s := by
  cases i <;> simp [exec, execInit, execWrbMsf, execWrbLsf, acceptFrame, MachineState.acceptInit,
    MachineState.acceptFrame, h]

/-- Everything a command can do when it is offered at `Idle`. -/
theorem exec_cases (i : Instr) (s : State) (h : s.phase = .idle) :
    (i = .init ∧ exec i s = .next (s.setPhase .configure)) ∨
    (∃ o v, (i = .wrbMsf v ∧ o = .msf ∨ i = .wrbLsf v ∧ o = .lsf) ∧ allOutputs s.cfg = true ∧
      exec i s = .next (captureFrame o v s)) ∨
    (i ≠ .init ∧ allOutputs s.cfg = false ∧ exec i s = .refused .wrbBeforeInit) := by
  cases i with
  | init => exact .inl ⟨rfl, execInit_idle s h⟩
  | wrbMsf v =>
    cases c : allOutputs s.cfg
    · exact .inr (.inr ⟨by simp, rfl, acceptFrame_unconfigured .msf v s h c⟩)
    · exact .inr (.inl ⟨.msf, v, .inl ⟨rfl, rfl⟩, rfl, acceptFrame_idle .msf v s h c⟩)
  | wrbLsf v =>
    cases c : allOutputs s.cfg
    · exact .inr (.inr ⟨by simp, rfl, acceptFrame_unconfigured .lsf v s h c⟩)
    · exact .inr (.inl ⟨.lsf, v, .inr ⟨rfl, rfl⟩, rfl, acceptFrame_idle .lsf v s h c⟩)

/-! ### One step -/

theorem step_busy (s : State) (h : s.phase ≠ .idle) : step s = .next (phaseStep s) := by
  simp [step, h]

theorem step_nothing_offered (s : State) (h : s.phase = .idle) (e : s.offers = []) : step s = .next s := by
  simp [step, h, offeredWord, e]

theorem step_offered (s : State) (w : CmdWord) (ws : List CmdWord) (h : s.phase = .idle) (e : s.offers = w :: ws) :
    step s = exec (decode w) (s.setOffers ws) := by
  simp [step, h, offeredWord, takeOffer, e]

/-- Everything a step can do. -/
theorem step_cases (s : State) :
    (s.phase ≠ .idle ∧ step s = .next (phaseStep s)) ∨
    (s.phase = .idle ∧ s.offers = [] ∧ step s = .next s) ∨
    (∃ w ws, s.phase = .idle ∧ s.offers = w :: ws ∧ step s = exec (decode w) (s.setOffers ws)) := by
  by_cases h : s.phase = .idle
  · cases e : s.offers with
    | nil => exact .inr (.inl ⟨h, rfl, step_nothing_offered s h e⟩)
    | cons w ws => exact .inr (.inr ⟨w, ws, h, rfl, step_offered s w ws h e⟩)
  · exact .inl ⟨h, step_busy s h⟩

/-! ### The phases: what `phaseStep` is in each -/

theorem phaseStep_idle (s : State) (h : s.phase = .idle) : phaseStep s = s := by
  simp only [phaseStep, MachineState.phaseStep, MachineState.stepAsksDraw, h]; rfl
theorem phaseStep_configure (s : State) (h : s.phase = .configure) :
    phaseStep s = (s.setCfg ⟨true, true, true⟩).setPhase .idle := by
  simp only [phaseStep, MachineState.phaseStep, MachineState.stepAsksDraw, h]; rfl
theorem phaseStep_latchLow (s : State) (h : s.phase = .latchLow) :
    phaseStep s = (s.setOut ⟨s.out.data, s.out.shcp, .low⟩).setPhase .extractBit := by
  simp only [phaseStep, MachineState.phaseStep, MachineState.stepAsksDraw, h]; rfl
theorem phaseStep_extractBit (s : State) (h : s.phase = .extractBit) :
    phaseStep s = (s.setBit (extractedBit s.ord s.val)).setPhase .driveData := by
  simp only [phaseStep, MachineState.phaseStep, MachineState.stepAsksDraw, h]; rfl
theorem phaseStep_driveData (s : State) (h : s.phase = .driveData) :
    phaseStep s = (s.setOut ⟨lvl s.bit, s.out.shcp, s.out.stcp⟩).setPhase .pulseClockHigh := by
  simp only [phaseStep, MachineState.phaseStep, MachineState.stepAsksDraw, h,
    MachineState.stepDriveData, MachineState.driveData_eq]; rfl
theorem phaseStep_pulseClockHigh (s : State) (h : s.phase = .pulseClockHigh) :
    phaseStep s = (setHigh .shcp s).setPhase .pulseClockLow := by
  simp only [phaseStep, MachineState.phaseStep, MachineState.stepAsksDraw, MachineState.asksDraw, h,
    decide_eq_true_eq]; rfl
theorem phaseStep_pulseClockLow (s : State) (h : s.phase = .pulseClockLow) :
    phaseStep s = (s.setOut ⟨s.out.data, .low, s.out.stcp⟩).setPhase .shiftValue := by
  simp only [phaseStep, MachineState.phaseStep, MachineState.stepAsksDraw, h]; rfl
theorem phaseStep_shiftValue (s : State) (h : s.phase = .shiftValue) :
    phaseStep s = ((s.setVal (shiftedValue s.ord s.val)).setCnt (s.cnt + 1#4)).setPhase (afterShiftValue s.cnt) := by
  simp only [phaseStep, MachineState.phaseStep, MachineState.stepAsksDraw, h]; rfl
theorem phaseStep_pulseLatch (s : State) (h : s.phase = .pulseLatch) :
    phaseStep s = (setHigh .stcp s).setPhase .idle := by
  simp only [phaseStep, MachineState.phaseStep, MachineState.stepAsksDraw, MachineState.asksDraw, h,
    decide_eq_true_eq]; rfl

/-! ### Waits -/

/-- Waits change no state (R113). -/
@[simp] theorem runLineOps_waits (n : Nat) (s : State) : runLineOps (waits n) s = s := by
  induction n with
  | zero => rfl
  | succ n ih => exact ih

theorem mem_waits (n : Nat) (op : LineOp) (h : op ∈ waits n) : op = .busyWaitShort := (List.mem_replicate.1 h).2

/-- The line operations a phase records are those it performs: the step is those operations and then its
writes of the sequencer's own registers. -/
theorem phaseStep_lines (s : State) :
    (phaseStep s).cfg = (runLineOps (stepEvents s) s).cfg ∧ (phaseStep s).out = (runLineOps (stepEvents s) s).out ∧
    (phaseStep s).t = (runLineOps (stepEvents s) s).t ∧ (phaseStep s).q = (runLineOps (stepEvents s) s).q ∧
    (phaseStep s).draws = (runLineOps (stepEvents s) s).draws := by
  cases h : s.phase with
  | driveData =>
    have e : runLineOps (stepEvents s) s = s.withMachine (s.toMachineState.driveData s.bit) := by
      rw [← driveData_event]
      simp [stepEvents, h, driveEvent]
    rw [e, phaseStep_driveData s h, MachineState.driveData_eq]
    exact ⟨rfl, rfl, rfl, rfl, rfl⟩
  | idle => simp [phaseStep_idle s h, stepEvents, h]
  | _ =>
    simp only [phaseStep, MachineState.phaseStep, MachineState.stepAsksDraw, MachineState.asksDraw, decide_eq_true_eq,
      stepEvents, h, runLineOps_append, runLineOps_waits, runLineOps_cons, runLineOps_nil]
    exact ⟨rfl, rfl, rfl, rfl, rfl⟩

/-! ### Runs and traces -/

@[simp] theorem runSteps_zero (s : State) : runSteps 0 s = .next s := rfl

theorem runSteps_succ (k : Nat) (s : State) :
    runSteps (k + 1) s = match step s with
      | .next s' => runSteps k s'
      | .fault r => .fault r
      | .refused r => .refused r := by
  unfold runSteps
  simp only [Host.Core.run, Sys2Proof.core]
  cases step s <;> rfl

theorem runSteps_succ_of_next {k : Nat} {s s' : State} (h : step s = .next s') : runSteps (k + 1) s = runSteps k s' := by
  rw [runSteps_succ, h]

@[simp] theorem trace_zero (s : State) : trace 0 s = [] := rfl

theorem trace_succ_of_next {k : Nat} {s s' : State} (h : step s = .next s') :
    trace (k + 1) s = stepEvents s ++ trace k s' := by
  rw [trace, h]

/-- A run of `j + k` steps is a run of `j` and then one of `k`. -/
theorem runSteps_add (j k : Nat) {s s' : State} (h : runSteps j s = .next s') :
    runSteps (j + k) s = runSteps k s' := by
  induction j generalizing s with
  | zero => cases h; rw [Nat.zero_add]
  | succ j ih =>
    rw [runSteps_succ] at h
    rw [Nat.add_right_comm, runSteps_succ]
    cases e : step s with
    | next s₁ => rw [e] at h; exact ih h
    | fault r => rw [e] at h; cases h
    | refused r => rw [e] at h; cases h

theorem trace_add (j k : Nat) {s s' : State} (h : runSteps j s = .next s') :
    trace (j + k) s = trace j s ++ trace k s' := by
  induction j generalizing s with
  | zero => cases h; simp
  | succ j ih =>
    rw [runSteps_succ] at h
    rw [Nat.add_right_comm]
    cases e : step s with
    | next s₁ =>
      rw [e] at h
      rw [trace_succ_of_next e, trace_succ_of_next e, ih h, List.append_assoc]
    | fault r => rw [e] at h; cases h
    | refused r => rw [e] at h; cases h

end Sys2Proof.Machine
end

