-- ==== Sys2Proof/Laws/Frame.lean ====
section
/-! SUPPORT. The five steps of one bit, as one lemma about the state and one about the trace. -/

namespace Sys2Proof.Machine

/-- What the five steps of a bit make of a state at `ExtractBit` with `CFG = (1,1,1)` (R97 to R101). -/
def bitReturn (s : State) : State :=
  { s with
    phase := afterShiftValue s.cnt
    cnt := s.cnt + 1#4
    val := shiftedValue s.ord s.val
    bit := extractedBit s.ord s.val
    out := ⟨lvl (extractedBit s.ord s.val), .low, s.out.stcp⟩
    t := if risingEdge .shcp s then s.t.shiftIn (tri (extractedBit s.ord s.val)) else s.t
    draws := drawsAfter .shcp s }

/-- The chain of five states from `ExtractBit` to the end of the bit. -/
theorem bit_steps (s : State) (h : s.phase = .extractBit) (c : s.cfg = ⟨true, true, true⟩) :
    ∃ s₁ s₂ s₃ s₄, step s = .next s₁ ∧ step s₁ = .next s₂ ∧ step s₂ = .next s₃ ∧ step s₃ = .next s₄ ∧
      step s₄ = .next (bitReturn s) ∧ s₁.phase = .driveData ∧ s₁.bit = extractedBit s.ord s.val ∧
      s₂.phase = .pulseClockHigh ∧ s₃.phase = .pulseClockLow ∧ s₄.phase = .shiftValue := by
  let s₁ := (s.setBit (extractedBit s.ord s.val)).setPhase .driveData
  let s₂ := (s₁.setOut ⟨lvl s₁.bit, s₁.out.shcp, s₁.out.stcp⟩).setPhase .pulseClockHigh
  let s₃ := (setHigh .shcp s₂).setPhase .pulseClockLow
  let s₄ := (s₃.setOut ⟨s₃.out.data, .low, s₃.out.stcp⟩).setPhase .shiftValue
  have e₀ : step s = .next s₁ := by rw [step_busy s (by simp [h]), phaseStep_extractBit s h]
  have e₁ : step s₁ = .next s₂ := by rw [step_busy s₁ (by simp [s₁]), phaseStep_driveData s₁ rfl]
  have e₂ : step s₂ = .next s₃ := by rw [step_busy s₂ (by simp [s₂]), phaseStep_pulseClockHigh s₂ rfl]
  have e₃ : step s₃ = .next s₄ := by rw [step_busy s₃ (by simp [s₃]), phaseStep_pulseClockLow s₃ rfl]
  have e₄ : step s₄ = .next (bitReturn s) := by
    rw [step_busy s₄ (by simp [s₄]), phaseStep_shiftValue s₄ rfl]
    obtain ⟨⟨phase, cnt, val, ord, bit, cfg, out, t, q⟩, offers, draws⟩ := s
    obtain rfl : cfg = ⟨true, true, true⟩ := c
    cases hb : extractedBit ord val <;>
      simp [s₁, s₂, s₃, s₄, State.setBit, State.setPhase, State.setOut, State.setVal, State.setCnt, State.setDraws,
        State.withMachine, setHigh, MachineState.setHigh, MachineState.reactToShiftClock, risingEdge,
        MachineState.risingEdge, drawsAfter, MachineState.shiftedChain, MachineState.lineLevel, bitReturn, hb]
  exact ⟨s₁, s₂, s₃, s₄, e₀, e₁, e₂, e₃, e₄, rfl, rfl, rfl, rfl, rfl⟩

/-- Five steps take a configured engine from `ExtractBit` to the end of the bit. -/
theorem runSteps_bit (s : State) (h : s.phase = .extractBit) (c : s.cfg = ⟨true, true, true⟩) :
    runSteps 5 s = .next (bitReturn s) := by
  obtain ⟨s₁, s₂, s₃, s₄, e₀, e₁, e₂, e₃, e₄, -⟩ := bit_steps s h c
  rw [runSteps_succ_of_next e₀, runSteps_succ_of_next e₁, runSteps_succ_of_next e₂, runSteps_succ_of_next e₃,
    runSteps_succ_of_next e₄, runSteps_zero]

/-- Those five steps record the events of the bit (R83 step 2). -/
theorem trace_bit (s : State) (h : s.phase = .extractBit) (c : s.cfg = ⟨true, true, true⟩) :
    trace 5 s = bitEvents (extractedBit s.ord s.val) := by
  obtain ⟨s₁, s₂, s₃, s₄, e₀, e₁, e₂, e₃, e₄, p₁, b₁, p₂, p₃, p₄⟩ := bit_steps s h c
  rw [trace_succ_of_next e₀, trace_succ_of_next e₁, trace_succ_of_next e₂, trace_succ_of_next e₃,
    trace_succ_of_next e₄, trace_zero]
  simp [stepEvents, h, p₁, p₂, p₃, p₄, b₁, bitEvents]

/-- The bits a run of the sequencer extracts are the bits the frame sends, `n` shifts on (R86): the value after
`n` shifts. -/
def shiftedBy (o : Order) (n : Nat) (v : Byte) : Byte := (shiftedValue o)^[n] v

theorem shiftedBy_zero (o : Order) (v : Byte) : shiftedBy o 0 v = v := rfl

theorem shiftedBy_succ (o : Order) (n : Nat) (v : Byte) :
    shiftedBy o (n + 1) v = shiftedValue o (shiftedBy o n v) := Function.iterate_succ_apply' _ _ _

end Sys2Proof.Machine
end

