-- ==== Sys2Proof/Laws/PerInstr.lean ====
section
/-! SUPPORT. Families of laws with one lemma per constructor of `Instr`. -/

namespace Sys2Proof.Laws

/-- Family `Selected`: the encoding of a command selects the row of the opcode map that bears its mnemonic, and
no other row (R65). -/
def Selected.Statement (i : Instr) : Prop :=
  (opcodeMap.filter fun r => r.selects (encode i)).map OpcodeRow.mnemonic = [i.mnemonic]

theorem Selected.init : Selected.Statement .init := by
  unfold Selected.Statement
  decide

theorem Selected.wrbMsf (value : Byte) : Selected.Statement (.wrbMsf value) := by
  have h9 : (encode (.wrbMsf value)).getLsbD 9 = true := getLsbD_encode_wrbMsf value 9
  have h8 : (encode (.wrbMsf value)).getLsbD 8 = false := getLsbD_encode_wrbMsf value 8
  have r0 := selects_init (encode (.wrbMsf value))
  have r1 := selects_wrb (encode (.wrbMsf value)) false
  have r2 := selects_wrb (encode (.wrbMsf value)) true
  simp_all [Selected.Statement, opcodeMap, OpcodeRow.selects, Instr.mnemonic]

theorem Selected.wrbLsf (value : Byte) : Selected.Statement (.wrbLsf value) := by
  have h9 : (encode (.wrbLsf value)).getLsbD 9 = true := getLsbD_encode_wrbLsf value 9
  have h8 : (encode (.wrbLsf value)).getLsbD 8 = true := getLsbD_encode_wrbLsf value 8
  have r0 := selects_init (encode (.wrbLsf value))
  have r1 := selects_wrb (encode (.wrbLsf value)) false
  have r2 := selects_wrb (encode (.wrbLsf value)) true
  simp_all [Selected.Statement, opcodeMap, OpcodeRow.selects, Instr.mnemonic]

end Sys2Proof.Laws
end

