-- ==== Sys2Proof/Tests/Slice0.lean ====
section
/-! SUPPORT. Tests with expected results from the spec's worked examples (95_test_vectors.md; V<n>, P<n>), each about one step or
one operation, and for each obligation with hypotheses a state that meets them. -/

namespace Sys2Proof.Tests

open Sys2Proof.Machine

/-! ### Helpers -/

/-- `CFG = (1,1,1)`, `Idle`, with the levels given. -/
def ready (out : Lines Level) : State := (State.reset.setCfg ⟨true, true, true⟩).setOut out

/-- `ready`, at a phase and a count. -/
def atPhase (p : Phase) (cnt : Count) (out : Lines Level) : State := ((ready out).setPhase p).setCnt cnt

/-- Eight bits as stages, index 0 first. -/
def stages (b : BitVec 8) : Stages := Stages.ofFn fun k => tri (b.getLsbD (7 - k.val))

/-- The next state satisfies `f`. -/
def steps (s : State) (f : State → Bool) : Bool :=
  match step s with
  | .next t => f t
  | .fault _ => false
  | .refused _ => false

/-- The step is refused as `WrbBeforeInit`. -/
def refusedBeforeInit (s : State) : Bool :=
  match step s with
  | .refused .wrbBeforeInit => true
  | .next _ => false
  | .fault _ => false
  | .refused _ => false

/-! ### Well-formedness: an ill-formed term for each check -/

/-- R69: a literal above 255. No `Instr` is ill-formed: its operand type is the field itself (R62, R67). -/
theorem test_literal_out_of_range_refused : (AsmLine.wrb .msf 256).wf = false ∧ (AsmLine.wrb .lsf 255).wf = true := by
  decide

/-- R165: `WRB` before the first `INIT`. -/
theorem test_wrb_first_is_out_of_order :
    respectsInitOrder false [.wrbMsf 0xB1#8, .init] = false ∧ respectsInitOrder false [.init, .wrbMsf 0xB1#8] = true := by
  decide

theorem test_every_command_well_formed : Instr.init.wf = true ∧ (Instr.wrbMsf 0xFF#8).wf = true ∧
    (Instr.wrbLsf 0xFF#8).wf = true := by decide

/-! ### Decoding: the words of V7 and V9, written out by R61 -/

theorem test_decode_init : decode 0b0000000000#10 = .init ∧ decode 0b0111111111#10 = .init ∧
    decode 0b0010110001#10 = .init ∧ decode 0b0100000000#10 = .init := by decide

theorem test_decode_wrbMsf : decode 0b1010110001#10 = .wrbMsf 0xB1#8 ∧ decode 0b1000000001#10 = .wrbMsf 0x01#8 ∧
    decode 0b1011111111#10 = .wrbMsf 0xFF#8 := by decide

theorem test_decode_wrbLsf : decode 0b1110001101#10 = .wrbLsf 0x8D#8 ∧ decode 0b1100000000#10 = .wrbLsf 0x00#8 ∧
    decode 0b1110110001#10 = .wrbLsf 0xB1#8 := by decide

/-- R60: there is no word of another length. -/
theorem test_wider_word_rejected : decodeTableWord 16 0x2B1 = some (.wrbMsf 0xB1#8) ∧ decodeTableWord 16 0x400 = none := by
  decide

/-- R69: P1's and P2's lines, with the literal in each of its three forms. -/
theorem test_assembly_text :
    assembleProgram ["INIT", "WRB.MSF 0xB1", "WRB.LSF 0b10110001", "WRB.MSF 177"] =
      some [0x000#10, 0x2B1#10, 0x3B1#10, 0x2B1#10] := by decide

theorem test_assembly_text_refused : assembleText "WRB.MSF 256" = none ∧ assembleText "WRB 1" = none := by decide

/-! ### Acceptance (V10, V15 step 1, V21) -/

theorem test_init_accepted_first_after_reset :
    steps (State.reset.withFetchWord 16 0x000) (fun t => t.phase = .configure && t.offers = []) = true := by decide

theorem test_wrb_refused_first_after_reset :
    refusedBeforeInit (State.reset.withFetchWord 16 0x2B1) = true ∧
      refusedBeforeInit (State.reset.withFetchWord 16 0x300) = true := by decide

theorem test_wrb_accepted :
    steps ((ready ⟨.low, .low, .low⟩).withFetchWord 16 0x38D)
      (fun t => t.phase = .latchLow && t.cnt = 0#4 && t.val = 0x8D#8 && t.ord = .lsf) = true := by decide

/-! ### Steps of a frame (rows of V15, V16) -/

theorem test_configure_step : steps (State.reset.setPhase .configure)
    (fun t => t.phase = .idle && t.cfg = ⟨true, true, true⟩ && t.out = ⟨.u, .u, .u⟩) = true := by decide

/-- Step 2 from `OUT[STCP] = H`. -/
theorem test_latch_low_step : steps (atPhase .latchLow 0#4 ⟨.high, .low, .high⟩)
    (fun t => t.phase = .extractBit && t.out = ⟨.high, .low, .low⟩) = true := by decide

/-- Step 13, and V16's second row: `VAL[7]` of 11000100, `VAL[0]` of 01011000. -/
theorem test_extract_step : steps ((atPhase .extractBit 2#4 ⟨.low, .low, .low⟩).setVal 0b11000100#8)
      (fun t => t.phase = .driveData && t.bit = true) = true ∧
    steps (((atPhase .extractBit 1#4 ⟨.low, .low, .low⟩).setVal 0b01011000#8).setOrd .lsf)
      (fun t => t.bit = false) = true := by decide

/-- Step 19: the level is written although Data holds it. -/
theorem test_drive_step : steps ((atPhase .driveData 3#4 ⟨.high, .low, .low⟩).setBit true)
    (fun t => t.phase = .pulseClockHigh && t.out = ⟨.high, .low, .low⟩) = true := by decide

/-- V18's first three rows: from `L` the chain shifts, from `H` it does not. -/
theorem test_clock_high_step : steps ((atPhase .pulseClockHigh 0#4 ⟨.high, .low, .low⟩).setT (stages 0b00000000#8))
      (fun t => t.t = stages 0b00000001#8 && t.out = ⟨.high, .high, .low⟩) = true ∧
    steps ((atPhase .pulseClockHigh 0#4 ⟨.low, .low, .low⟩).setT (stages 0b11111111#8))
      (fun t => t.t = stages 0b11111110#8) = true ∧
    steps ((atPhase .pulseClockHigh 0#4 ⟨.high, .high, .low⟩).setT (stages 0b00000000#8))
      (fun t => t.t = stages 0b00000000#8) = true := by decide

/-- Step 6. -/
theorem test_clock_low_step : steps ((atPhase .pulseClockLow 0#4 ⟨.high, .high, .low⟩).setT (stages 0b01010101#8))
    (fun t => t.phase = .shiftValue && t.out = ⟨.high, .low, .low⟩ && t.t = stages 0b01010101#8) = true := by decide

/-- Steps 7 and 42, and V16's first shift. -/
theorem test_shift_step : steps ((atPhase .shiftValue 0#4 ⟨.high, .low, .low⟩).setVal 0b10110001#8)
      (fun t => t.phase = .extractBit && t.cnt = 1#4 && t.val = 0b01100010#8) = true ∧
    steps ((atPhase .shiftValue 7#4 ⟨.high, .low, .low⟩).setVal 0b10000000#8)
      (fun t => t.phase = .pulseLatch && t.cnt = 8#4 && t.val = 0#8) = true ∧
    steps (((atPhase .shiftValue 0#4 ⟨.high, .low, .low⟩).setVal 0b10110001#8).setOrd .lsf)
      (fun t => t.val = 0b01011000#8) = true := by decide

/-- Step 43, and V18's sixth row. -/
theorem test_latch_step : steps ((atPhase .pulseLatch 8#4 ⟨.high, .low, .low⟩).setT (stages 0b10110001#8))
      (fun t => t.phase = .idle && t.q = stages 0b10110001#8 && t.out = ⟨.high, .low, .high⟩) = true ∧
    steps ((atPhase .pulseLatch 8#4 ⟨.high, .low, .high⟩).setT (stages 0b10110001#8))
      (fun t => t.q = Stages.unknown) = true := by decide

/-- V18's tenth row: Data undetermined at a sampling edge. -/
theorem test_unknown_data_sampled :
    (setHigh .shcp ((ready ⟨.u, .low, .low⟩).setT (stages 0#8))).t = (stages 0#8).shiftIn .u := by decide

/-- V18's eleventh row: from `U` a draw is asked and the level is high. -/
theorem test_undetermined_clock_asks_a_draw : steps (atPhase .pulseClockHigh 0#4 ⟨.high, .u, .low⟩)
    (fun t => t.draws = 1 && t.out = ⟨.high, .high, .low⟩ && t.phase = .pulseClockLow) = true := by decide

/-! ### Witnesses: a state that meets the hypotheses of each obligation -/

/-- A configured engine at `Idle`, the premise of the statements about whole commands: `WhatACommandOverwrites`,
`WrbMsfSendsMostSignificantFirst`, `WrbLsfSendsLeastSignificantFirst`, `StepMachineEmitsTheFrame`, `LinesWhenWrbReturns`,
`DeviceAfterAFrame`, `SequencerRefinesTheWholeCommand`, `BitOrderSymmetry`, `CountsOfOneFrame`, `StepsOfACommand`,
`DrawsAreAskedForTheFirstClockOnly`, `FirstFrameHazard`, `NoBleedThrough`, `WaitsOfACommand`; with each level of ShiftClock. -/
theorem witness_whole_command (l : Level) : (ready ⟨.high, l, .high⟩).phase = .idle ∧
    (ready ⟨.high, l, .high⟩).cfg = ⟨true, true, true⟩ ∧ (ready ⟨.high, l, .high⟩).out.shcp = l := by
  cases l <;> decide

/-- The refused clauses of the two `WRB` statements, and the `INIT` statements, at reset. -/
theorem witness_InitConfiguresTheThreeLines : State.reset.phase = .idle ∧ State.reset.cfg ≠ ⟨true, true, true⟩ ∧
    (atPhase .latchLow 0#4 ⟨.low, .low, .low⟩).phase ≠ .idle := by decide

/-- The palindrome clause of `WrbLsfSendsLeastSignificantFirst` (V13), and a value that is none. -/
theorem witness_palindrome : reverseBits 0xA5#8 = 0xA5#8 ∧ reverseBits 0xB1#8 = 0x8D#8 := by decide

theorem witness_LaterResetStartsANewRun : State.reset.phase = .idle ∧
    (atPhase .extractBit 3#4 ⟨.low, .low, .low⟩).phase ≠ .idle := by decide

/-- `OrderIsFixedForTheWholeFrame`: a busy step, an `Idle` step, and the acceptance of `WRB.LSF`. -/
theorem witness_OrderIsFixedForTheWholeFrame :
    (∃ t, step (atPhase .extractBit 0#4 ⟨.low, .low, .low⟩) = .next t) ∧ step State.reset = .next State.reset ∧
      ∃ t, step ((ready ⟨.low, .low, .low⟩).setOffers [0x3B1#10]) = .next t := by
  refine ⟨⟨_, step_busy _ (by decide)⟩, step_nothing_offered _ rfl rfl, ?_⟩
  rw [step_offered _ 0x3B1#10 [] rfl rfl, show decode 0x3B1#10 = .wrbLsf 0xB1#8 by decide]
  simp only [exec, execWrbLsf]
  exact ⟨_, acceptFrame_idle .lsf 0xB1#8 _ rfl (by decide)⟩

theorem witness_SuccessorDependsOnPhaseAndCountAlone :
    (atPhase .shiftValue 7#4 ⟨.low, .low, .low⟩).phase ≠ .idle ∧
      (atPhase .shiftValue 7#4 ⟨.high, .low, .low⟩).cnt = (atPhase .shiftValue 7#4 ⟨.low, .low, .low⟩).cnt := by decide

/-- `NothingClearsAConfigurationBit`: the step that changes `CFG`, and a configured line. -/
theorem witness_NothingClearsAConfigurationBit :
    (∃ t, step (State.reset.setPhase .configure) = .next t ∧ t.cfg ≠ State.reset.cfg) ∧
      (ready ⟨.u, .u, .u⟩).cfg.get .shcp = true :=
  ⟨⟨_, step_busy _ (by decide), by decide⟩, rfl⟩

theorem witness_EngineNeverReadsTheLines : (runLineOp .busyWaitShort State.reset).out.get .data = .u := by decide

theorem witness_WorkingRegistersAreDeadBetweenCommands :
    State.reset.phase = .idle ∧ agreeButWorking State.reset (State.reset.setVal 0xFF#8) ∧
      State.reset ≠ State.reset.setVal 0xFF#8 :=
  ⟨rfl, ⟨rfl, rfl, rfl, rfl, rfl, rfl, rfl⟩, by decide⟩

/-- The boundaries of the ranges of `OpcodeMapDecidesEveryWord`. -/
theorem witness_OpcodeMapDecidesEveryWord : (0x1FF#10 : CmdWord).toNat ≤ 0x1FF ∧ 0x200 ≤ (0x200#10 : CmdWord).toNat ∧
    (0x2FF#10 : CmdWord).toNat ≤ 0x2FF ∧ 0x300 ≤ (0x300#10 : CmdWord).toNat := by decide

theorem witness_DecodeAndEncodeAgree : (0x2B1#10 : CmdWord).getLsbD 9 = true ∧ (0x1FF#10 : CmdWord).getLsbD 9 = false := by
  decide

/-- `StepRunsTheOfferedCommand`, `CommandPortHandshake`, `AcceptingInit`, `AcceptingWrb`. -/
theorem witness_StepRunsTheOfferedCommand :
    ((ready ⟨.low, .low, .low⟩).setOffers [0x2B1#10, 0x0B1#10]).phase = .idle ∧
      ((ready ⟨.low, .low, .low⟩).setOffers [0x2B1#10, 0x0B1#10]).offers = 0x2B1#10 :: [0x0B1#10] ∧
      (0x2B1#10 : CmdWord).getLsbD 9 = true ∧ (0x0B1#10 : CmdWord).getLsbD 9 = false ∧
      State.reset.offers = [] ∧ (atPhase .driveData 0#4 ⟨.low, .low, .low⟩).phase ≠ .idle := by decide

/-- The eight statements about a phase: each has a state at its phase. -/
theorem witness_phases (p : Phase) : (atPhase p 0#4 ⟨.low, .low, .low⟩).phase = p := rfl

/-- The levels the device's clauses distinguish, seen on a configured line: `PulseClockHighPhase`, `PulseLatchPhase`,
`SetHighEffect`, `ShiftClockEdgeShiftsTheChain`, `LatchClockEdgeCopiesTheChain`, `NothingElseChangesTheDevice`. -/
theorem witness_levels (a b c : Level) : (ready ⟨a, b, c⟩).lineLevel .data = a ∧ (ready ⟨a, b, c⟩).lineLevel .shcp = b ∧
    (ready ⟨a, b, c⟩).lineLevel .stcp = c := ⟨rfl, rfl, rfl⟩

/-- `ConfigureAsOutputEffect`, `SetLowAndWaitEffect`. -/
theorem witness_ConfigureAsOutputEffect : State.reset.cfg.get .data = false ∧
    (ready ⟨.low, .low, .low⟩).cfg.get .data = true ∧ (ready ⟨.low, .low, .low⟩).out.get .stcp = .low ∧
    Line.shcp ≠ Line.data := by decide

/-- A state in mid-frame that meets the laws, with ShiftClock undetermined before the first pulse. -/
theorem midframe_meets_the_laws : SequencerInv (atPhase .pulseClockHigh 0#4 ⟨.low, .u, .low⟩) := by
  constructor <;> first | decide | exact fun _ => by (show _ % _ = _; decide)

/-- A state before the last step of a frame that meets the laws. -/
theorem last_step_meets_the_laws : SequencerInv (atPhase .pulseLatch 8#4 ⟨.high, .low, .low⟩) := by
  constructor <;> first | decide | exact fun _ => by (show _ % _ = _; decide)

/-- `StepKeepsTheSequencerLaws`, `OutputsHoldUntilTheLatch` (both clauses), `EveryCommandReturns`. -/
theorem witness_StepKeepsTheSequencerLaws :
    (SequencerInv (atPhase .pulseClockHigh 0#4 ⟨.low, .u, .low⟩) ∧
      ∃ t, step (atPhase .pulseClockHigh 0#4 ⟨.low, .u, .low⟩) = .next t) ∧
    (SequencerInv (atPhase .pulseLatch 8#4 ⟨.high, .low, .low⟩) ∧
      ∃ t, step (atPhase .pulseLatch 8#4 ⟨.high, .low, .low⟩) = .next t) :=
  ⟨⟨midframe_meets_the_laws, _, step_busy _ (by decide)⟩, ⟨last_step_meets_the_laws, _, step_busy _ (by decide)⟩⟩

/-- `OneLineWritePerStep`: the `Configure` step, its events, and a step that changes a level. -/
theorem witness_OneLineWritePerStep : .configureAsOutput .shcp ∈ stepEvents (State.reset.setPhase .configure) ∧
    ∃ t, step (atPhase .latchLow 0#4 ⟨.low, .low, .high⟩) = .next t ∧
      t.out.get .stcp ≠ (atPhase .latchLow 0#4 ⟨.low, .low, .high⟩).out.get .stcp :=
  ⟨by decide, _, step_busy _ (by decide), by decide⟩

/-- `NothingElseChangesTheDevice`: a step with no edge on either clock line. -/
theorem witness_NothingElseChangesTheDevice :
    (∃ t, step (atPhase .latchLow 0#4 ⟨.low, .low, .high⟩) = .next t) ∧
      stepEdge .shcp (atPhase .latchLow 0#4 ⟨.low, .low, .high⟩) = false ∧
      stepEdge .stcp (atPhase .latchLow 0#4 ⟨.low, .low, .high⟩) = false :=
  ⟨⟨_, step_busy _ (by decide)⟩, by decide, by decide⟩

/-- `DataIsSetBeforeShiftClockRises`, with the edge of its last clause. -/
theorem witness_DataIsSetBeforeShiftClockRises :
    SequencerInv (atPhase .pulseClockHigh 0#4 ⟨.low, .low, .low⟩) ∧
      (atPhase .pulseClockHigh 0#4 ⟨.low, .low, .low⟩).phase = .pulseClockHigh ∧
      (∃ t, step (atPhase .pulseClockHigh 0#4 ⟨.low, .low, .low⟩) = .next t) ∧
      stepEdge .shcp (atPhase .pulseClockHigh 0#4 ⟨.low, .low, .low⟩) = true :=
  ⟨by constructor <;> first | decide | exact fun _ => by (show _ % _ = _; decide), rfl, ⟨_, step_busy _ (by decide)⟩, by decide⟩

/-- `DrawsAreAskedForTheFirstClockOnly`, its first clause: a step that asks a draw. -/
theorem witness_DrawsAreAskedForTheFirstClockOnly :
    SequencerInv (atPhase .pulseClockHigh 0#4 ⟨.low, .u, .low⟩) ∧
      ∃ t, step (atPhase .pulseClockHigh 0#4 ⟨.low, .u, .low⟩) = .next t ∧
        t.draws ≠ (atPhase .pulseClockHigh 0#4 ⟨.low, .u, .low⟩).draws :=
  ⟨midframe_meets_the_laws, _, step_busy _ (by decide), by decide⟩

/-- `TraceDeterminesTheDevice`: a run of one step that writes a line. -/
theorem witness_TraceDeterminesTheDevice : ∃ t, runSteps 1 (atPhase .latchLow 0#4 ⟨.low, .low, .high⟩) = .next t ∧
    trace 1 (atPhase .latchLow 0#4 ⟨.low, .low, .high⟩) = [.setLow .stcp] := by
  have e := step_busy (atPhase .latchLow 0#4 ⟨.low, .low, .high⟩) (by decide)
  exact ⟨_, by rw [runSteps_succ_of_next e, runSteps_zero], by rw [trace_succ_of_next e, trace_zero]; rfl⟩

theorem witness_RequiredOrderIsNeverRefused :
    hostKeepsOrder (State.reset.setOffers [0x000#10, 0x2B1#10, 0x30F#10]) = true ∧
      hostKeepsOrder (State.reset.setOffers [0x2B1#10]) = false ∧
      respectsInitOrder false (([0x0B1#10, 0x2B1#10] : List CmdWord).map decode) = true := by decide

/-- `TheOutsideIsOnlyInput`: at `Idle` and in a frame, two points of a run that differ in what the host has still to offer. -/
theorem witness_TheOutsideIsOnlyInput (p : Phase) :
    ((atPhase p 0#4 ⟨.low, .u, .low⟩).setOffers [0x2B1#10]).toMachineState =
      ((atPhase p 0#4 ⟨.low, .u, .low⟩).setOffers [0x2B1#10, 0x000#10]).toMachineState ∧
    offeredWord ((atPhase p 0#4 ⟨.low, .u, .low⟩).setOffers [0x2B1#10]) =
      offeredWord ((atPhase p 0#4 ⟨.low, .u, .low⟩).setOffers [0x2B1#10, 0x000#10]) ∧
    (atPhase p 0#4 ⟨.low, .u, .low⟩).setOffers [0x2B1#10] ≠
      (atPhase p 0#4 ⟨.low, .u, .low⟩).setOffers [0x2B1#10, 0x000#10] := ⟨rfl, rfl, by cases p <;> decide⟩

/-- `InputIsReadOnlyWhereAsked`: a busy machine that asks no draw and one that asks one, whose two answers differ (V18's
eleventh row). -/
theorem witness_InputIsReadOnlyWhereAsked :
    (atPhase .latchLow 0#4 ⟨.low, .u, .low⟩).phase ≠ .idle ∧
      (atPhase .latchLow 0#4 ⟨.low, .u, .low⟩).stepAsksDraw = false ∧
      (atPhase .pulseClockHigh 0#4 ⟨.high, .u, .low⟩).stepAsksDraw = true ∧
      ((atPhase .pulseClockHigh 0#4 ⟨.high, .u, .low⟩).setT (stages 0#8)).toMachineState.phaseStep true ≠
        ((atPhase .pulseClockHigh 0#4 ⟨.high, .u, .low⟩).setT (stages 0#8)).toMachineState.phaseStep false := by decide

/-- V20: from reset the first frame's draw has both outcomes, the machine's input given outright. -/
theorem test_first_frame_both_draws :
    [true, false].map (fun a =>
      match State.reset.toMachineState.run
          (⟨some 0x000#10, a⟩ :: ⟨none, a⟩ :: ⟨some 0x2B1#10, a⟩ :: List.replicate 42 ⟨none, a⟩) with
      | .next m => some (m.phase, m.q.s0, m.q.s7)
      | .fault _ => none
      | .refused _ => none) = [some (.idle, .one, .one), some (.idle, .u, .one)] := by decide

end Sys2Proof.Tests
end

section
/-! The statements of 10_state.md about the state and reset: what a step makes of each register, said once, and the
proofs that rest on it. -/

namespace Sys2Proof.Machine

/-! ### What a step can do, down to the bits of the word offered -/

theorem exec_decode_wrb {w : CmdWord} (b : w.getLsbD 9 = true) (s : State) :
    exec (decode w) s = acceptFrame (ordField w) (valueField w) s := by
  cases h : w.getLsbD 8
  · rw [decode_wrbMsf b h, ordField, h]; rfl
  · rw [decode_wrbLsf b h, ordField, h]; rfl

theorem step_accepts_init {s : State} {w : CmdWord} {ws : List CmdWord} (h : s.phase = .idle)
    (e : s.offers = w :: ws) (b : w.getLsbD 9 = false) :
    step s = .next ((s.setOffers ws).setPhase .configure) := by
  rw [step_offered s w ws h e, decode_init b]
  exact execInit_idle (s.setOffers ws) h

theorem step_accepts_wrb {s : State} {w : CmdWord} {ws : List CmdWord} (h : s.phase = .idle)
    (e : s.offers = w :: ws) (b : w.getLsbD 9 = true) (c : allOutputs s.cfg = true) :
    step s = .next (captureFrame (ordField w) (valueField w) (s.setOffers ws)) := by
  rw [step_offered s w ws h e, exec_decode_wrb b]
  exact acceptFrame_idle _ _ (s.setOffers ws) h c

theorem step_refuses_wrb {s : State} {w : CmdWord} {ws : List CmdWord} (h : s.phase = .idle)
    (e : s.offers = w :: ws) (b : w.getLsbD 9 = true) (c : allOutputs s.cfg = false) :
    step s = .refused .wrbBeforeInit := by
  rw [step_offered s w ws h e, exec_decode_wrb b]
  exact acceptFrame_unconfigured _ _ (s.setOffers ws) h c

/-- The five situations of a step: a busy engine; at `Idle` nothing, `INIT`, or a `WRB` with and without its
precondition on the port. -/
theorem step_situations (s : State) :
    s.phase ≠ .idle ∨ (s.phase = .idle ∧ s.offers = []) ∨
    (∃ w ws, s.phase = .idle ∧ s.offers = w :: ws ∧ w.getLsbD 9 = false) ∨
    (∃ w ws, s.phase = .idle ∧ s.offers = w :: ws ∧ w.getLsbD 9 = true ∧ allOutputs s.cfg = true) ∨
    (∃ w ws, s.phase = .idle ∧ s.offers = w :: ws ∧ w.getLsbD 9 = true ∧ allOutputs s.cfg = false) := by
  by_cases h : s.phase = .idle
  · cases e : s.offers with
    | nil => exact .inr (.inl ⟨h, rfl⟩)
    | cons w ws =>
      cases b : w.getLsbD 9
      · exact .inr (.inr (.inl ⟨w, ws, h, rfl, b⟩))
      · cases c : allOutputs s.cfg
        · exact .inr (.inr (.inr (.inr ⟨w, ws, h, rfl, b, rfl⟩)))
        · exact .inr (.inr (.inr (.inl ⟨w, ws, h, rfl, b, rfl⟩)))
  · exact .inl h

/-- Inversion: the state a step answers, by the situation it was taken in. -/
theorem step_next_cases {s s' : State} (h : step s = .next s') :
    (s.phase ≠ .idle ∧ s' = phaseStep s) ∨ (s.phase = .idle ∧ s.offers = [] ∧ s' = s) ∨
    (∃ w ws, s.phase = .idle ∧ s.offers = w :: ws ∧ w.getLsbD 9 = false ∧
      s' = (s.setOffers ws).setPhase .configure) ∨
    (∃ w ws, s.phase = .idle ∧ s.offers = w :: ws ∧ w.getLsbD 9 = true ∧ allOutputs s.cfg = true ∧
      s' = captureFrame (ordField w) (valueField w) (s.setOffers ws)) := by
  obtain p | ⟨p, e⟩ | ⟨w, ws, p, e, b⟩ | ⟨w, ws, p, e, b, c⟩ | ⟨w, ws, p, e, b, c⟩ := step_situations s
  · rw [step_busy s p] at h
    exact .inl ⟨p, by cases h; rfl⟩
  · rw [step_nothing_offered s p e] at h
    exact .inr (.inl ⟨p, e, by cases h; rfl⟩)
  · rw [step_accepts_init p e b] at h
    exact .inr (.inr (.inl ⟨w, ws, p, e, b, by cases h; rfl⟩))
  · rw [step_accepts_wrb p e b c] at h
    exact .inr (.inr (.inr ⟨w, ws, p, e, b, c, by cases h; rfl⟩))
  · rw [step_refuses_wrb p e b c] at h
    cases h

/-! ### What the capture of a frame writes (R94) -/

@[simp] theorem captureFrame_phase (o : Order) (v : Byte) (s : State) : (captureFrame o v s).phase = .latchLow := rfl
@[simp] theorem captureFrame_cnt (o : Order) (v : Byte) (s : State) : (captureFrame o v s).cnt = 0#4 := rfl
@[simp] theorem captureFrame_val (o : Order) (v : Byte) (s : State) : (captureFrame o v s).val = v := rfl
@[simp] theorem captureFrame_ord (o : Order) (v : Byte) (s : State) : (captureFrame o v s).ord = o := rfl
@[simp] theorem captureFrame_bit (o : Order) (v : Byte) (s : State) : (captureFrame o v s).bit = s.bit := rfl
@[simp] theorem captureFrame_cfg (o : Order) (v : Byte) (s : State) : (captureFrame o v s).cfg = s.cfg := rfl
@[simp] theorem captureFrame_offers (o : Order) (v : Byte) (s : State) :
    (captureFrame o v s).offers = s.offers := rfl

/-! ### What the step of a phase makes of each register -/

/-- The step of a phase, the nine rules (R92, R95 to R102) side by side. -/
theorem phaseStep_eq (s : State) : phaseStep s =
    match s.phase with
    | .idle => s
    | .configure => (s.setCfg ⟨true, true, true⟩).setPhase .idle
    | .latchLow => (s.setOut ⟨s.out.data, s.out.shcp, .low⟩).setPhase .extractBit
    | .extractBit => (s.setBit (extractedBit s.ord s.val)).setPhase .driveData
    | .driveData => (s.setOut ⟨lvl s.bit, s.out.shcp, s.out.stcp⟩).setPhase .pulseClockHigh
    | .pulseClockHigh => (setHigh .shcp s).setPhase .pulseClockLow
    | .pulseClockLow => (s.setOut ⟨s.out.data, .low, s.out.stcp⟩).setPhase .shiftValue
    | .shiftValue =>
      ((s.setVal (shiftedValue s.ord s.val)).setCnt (s.cnt + 1#4)).setPhase (afterShiftValue s.cnt)
    | .pulseLatch => (setHigh .stcp s).setPhase .idle := by
  cases h : s.phase with
  | idle => exact phaseStep_idle s h
  | configure => exact phaseStep_configure s h
  | latchLow => exact phaseStep_latchLow s h
  | extractBit => exact phaseStep_extractBit s h
  | driveData => exact phaseStep_driveData s h
  | pulseClockHigh => exact phaseStep_pulseClockHigh s h
  | pulseClockLow => exact phaseStep_pulseClockLow s h
  | shiftValue => exact phaseStep_shiftValue s h
  | pulseLatch => exact phaseStep_pulseLatch s h

theorem phaseStep_phase (s : State) : (phaseStep s).phase = successor s.phase s.cnt := by
  cases h : s.phase <;> simp [phaseStep_eq, h, successor, afterShiftValue]

theorem phaseStep_cnt (s : State) :
    (phaseStep s).cnt = if s.phase = .shiftValue then s.cnt + 1#4 else s.cnt := by
  cases h : s.phase <;> simp [phaseStep_eq, h, setHigh_shcp, setHigh_stcp]

theorem phaseStep_val (s : State) :
    (phaseStep s).val = if s.phase = .shiftValue then shiftedValue s.ord s.val else s.val := by
  cases h : s.phase <;> simp [phaseStep_eq, h, setHigh_shcp, setHigh_stcp]

@[simp] theorem phaseStep_ord (s : State) : (phaseStep s).ord = s.ord := by
  cases h : s.phase <;> simp [phaseStep_eq, h, setHigh_shcp, setHigh_stcp]

theorem phaseStep_bit (s : State) :
    (phaseStep s).bit = if s.phase = .extractBit then extractedBit s.ord s.val else s.bit := by
  cases h : s.phase <;> simp [phaseStep_eq, h, setHigh_shcp, setHigh_stcp]

theorem phaseStep_cfg (s : State) :
    (phaseStep s).cfg = if s.phase = .configure then ⟨true, true, true⟩ else s.cfg := by
  cases h : s.phase <;> simp [phaseStep_eq, h]

@[simp] theorem phaseStep_offers (s : State) : (phaseStep s).offers = s.offers := rfl

/-! ### `ORD`, `PHASE` and `CNT`, `CFG` -/

/-- Settles O4: the inversion of a step, `ORD` being written by the capture of a frame alone. -/
theorem orderIsFixedForTheWholeFrame : Obligations.OrderIsFixedForTheWholeFrame := by
  intro s s' hs
  obtain ⟨p, rfl⟩ | ⟨p, e, rfl⟩ | ⟨w, ws, p, e, b, rfl⟩ | ⟨w, ws, p, e, b, -, rfl⟩ := step_next_cases hs
  · exact ⟨fun _ => phaseStep_ord s, fun h => absurd h p, fun _ _ h => absurd h p⟩
  · simp [e]
  all_goals
    refine ⟨fun h => absurd p h, fun _ h => by simp [h] at e, fun w' ws' _ e' => ?_⟩
    obtain ⟨rfl, rfl⟩ := List.cons.inj (e.symm.trans e')
    rw [b]
    rfl

/-- Settles O5: both registers of a busy step are given by `successor` and the new count. -/
theorem successorDependsOnPhaseAndCountAlone : Obligations.SuccessorDependsOnPhaseAndCountAlone := by
  intro s₁ h₁
  refine ⟨phaseStep s₁, step_busy s₁ h₁, phaseStep_phase s₁, phaseStep_cnt s₁, fun s₂ p c => ?_⟩
  have h₂ : s₂.phase ≠ .idle := p ▸ h₁
  exact ⟨phaseStep s₂, step_busy s₂ h₂, by rw [phaseStep_phase, phaseStep_phase, p, c],
    by rw [phaseStep_cnt, phaseStep_cnt, p, c]⟩

/-- Only the `Configure` step changes `CFG`. -/
theorem step_cfg {s s' : State} (h : step s = .next s') :
    s'.cfg = if s.phase = .configure then ⟨true, true, true⟩ else s.cfg := by
  obtain ⟨-, rfl⟩ | ⟨p, -, rfl⟩ | ⟨w, ws, p, -, -, rfl⟩ | ⟨w, ws, p, -, -, -, rfl⟩ := step_next_cases h
  · exact phaseStep_cfg s
  · simp [p]
  · simp [p]
  · simp [p]

theorem Lines.get_set_true (c : Lines Bool) (n m : Line) (h : c.get m = true) : (c.set n true).get m = true := by
  by_cases e : m = n
  · rw [e, Lines.get_set_same]
  · rw [Lines.get_set_other c n m true e, h]

theorem runLineOp_cfg (op : LineOp) (s : State) :
    (runLineOp op s).cfg = match op with
      | .configureAsOutput n => s.cfg.set n true
      | _ => s.cfg := by
  cases op with
  | configureAsOutput n => rfl
  | setHigh n => exact setHigh_cfg n s
  | setLow n => rfl
  | busyWaitShort => rfl

/-- Settles O6: `CFG` is only ever replaced by (1,1,1) or written with a 1. -/
theorem nothingClearsAConfigurationBit : Obligations.NothingClearsAConfigurationBit := by
  refine ⟨fun s s' hs => ⟨fun n hn => ?_, fun hne => ?_⟩, fun n s => ?_, fun op s n hn => ?_, fun c n => ?_⟩
  · rw [step_cfg hs]
    split
    · cases n <;> rfl
    · exact hn
  · by_contra p
    exact hne (by rw [step_cfg hs, if_neg p])
  · exact Lines.get_set_same s.cfg n true
  · rw [runLineOp_cfg]
    split
    · exact Lines.get_set_true s.cfg _ n hn
    · exact hn
  · cases n <;> rfl

/-! ### `OUT` is written and never read -/

theorem runLineOp_out (op : LineOp) (s : State) :
    (runLineOp op s).out = match op with
      | .setHigh n => s.out.set n .high
      | .setLow n => s.out.set n .low
      | _ => s.out := by
  cases op with
  | setHigh n => exact setHigh_out n s
  | configureAsOutput n => rfl
  | setLow n => rfl
  | busyWaitShort => rfl

theorem Lines.get_eq_u_of_set {l : Lines Level} {n m : Line} {a : Level} (ha : a ≠ .u)
    (h : (l.set n a).get m = .u) : l.get m = .u := by
  by_cases e : m = n
  · rw [e, Lines.get_set_same] at h
    exact absurd h ha
  · rwa [Lines.get_set_other l n m a e] at h

theorem runLineOp_never_writes_u (op : LineOp) (s : State) (n : Line) (h : (runLineOp op s).out.get n = .u) :
    s.out.get n = .u := by
  rw [runLineOp_out] at h
  cases op with
  | setHigh m => exact Lines.get_eq_u_of_set (by decide) h
  | setLow m => exact Lines.get_eq_u_of_set (by decide) h
  | configureAsOutput m => exact h
  | busyWaitShort => exact h

/-- The registers of the engine after the step of a phase do not depend on `OUT`. -/
theorem phaseStep_setOut (s : State) (l : Lines Level) :
    (phaseStep (s.setOut l)).phase = (phaseStep s).phase ∧ (phaseStep (s.setOut l)).cnt = (phaseStep s).cnt ∧
    (phaseStep (s.setOut l)).val = (phaseStep s).val ∧ (phaseStep (s.setOut l)).ord = (phaseStep s).ord ∧
    (phaseStep (s.setOut l)).bit = (phaseStep s).bit ∧ (phaseStep (s.setOut l)).cfg = (phaseStep s).cfg ∧
    (phaseStep (s.setOut l)).offers = (phaseStep s).offers := by
  simp only [phaseStep_phase, phaseStep_cnt, phaseStep_val, phaseStep_ord, phaseStep_bit, phaseStep_cfg,
    phaseStep_offers]
  exact ⟨rfl, rfl, rfl, rfl, rfl, rfl, rfl⟩

/-- Settles O7: in each situation of a step both states take the same rule, and no rule reads `OUT` for a register. -/
theorem engineNeverReadsTheLines : Obligations.EngineNeverReadsTheLines := by
  refine ⟨runLineOp_never_writes_u, fun s l => ⟨rfl, ?_⟩⟩
  obtain p | ⟨p, e⟩ | ⟨w, ws, p, e, b⟩ | ⟨w, ws, p, e, b, c⟩ | ⟨w, ws, p, e, b, c⟩ := step_situations s
  · exact .inr ⟨_, _, step_busy s p, step_busy (s.setOut l) p, phaseStep_setOut s l⟩
  · exact .inr ⟨_, _, step_nothing_offered s p e, step_nothing_offered (s.setOut l) p e, by simp⟩
  · exact .inr ⟨_, _, step_accepts_init p e b, step_accepts_init (s := s.setOut l) p e b, by simp⟩
  · exact .inr ⟨_, _, step_accepts_wrb p e b c, step_accepts_wrb (s := s.setOut l) p e b c, by simp⟩
  · exact .inl ⟨_, step_refuses_wrb p e b c, step_refuses_wrb (s := s.setOut l) p e b c⟩

/-! ### `VAL`, `ORD`, `BIT` and `CNT` between commands -/

theorem observe_succ_of_next {k : Nat} {s s' : State} (h : step s = .next s') :
    observe (k + 1) s = (observe k s').map fun o => { o with events := stepEvents s ++ o.events } := by
  rw [observe, observe, runSteps_succ_of_next h, trace_succ_of_next h]
  cases runSteps k s' <;> rfl

theorem observe_succ_of_refused {k : Nat} {s : State} {r : Refusal} (h : step s = .refused r) :
    observe (k + 1) s = none := by
  rw [observe, runSteps_succ, h]

/-- Two runs whose first steps record alike and whose rests are observed alike are observed alike. -/
theorem observe_succ_congr {k : Nat} {s₁ s₂ t₁ t₂ : State} (h₁ : step s₁ = .next t₁) (h₂ : step s₂ = .next t₂)
    (he : stepEvents s₁ = stepEvents s₂) (ht : observe k t₁ = observe k t₂) :
    observe (k + 1) s₁ = observe (k + 1) s₂ := by
  rw [observe_succ_of_next h₁, observe_succ_of_next h₂, he, ht]

/-- `BIT` is dead at `ExtractBit`, which overwrites it (R97). -/
theorem observe_setBit_extractBit (k : Nat) (s : State) (b : Bool) (h : s.phase = .extractBit) :
    observe k (s.setBit b) = observe k s := by
  cases k with
  | zero => rfl
  | succ k =>
    have p : s.phase ≠ .idle := by simp [h]
    refine observe_succ_congr (step_busy (s.setBit b) p) (step_busy s p) (by simp [stepEvents, h]) ?_
    rw [phaseStep_extractBit (s.setBit b) h, phaseStep_extractBit s h]
    rfl

/-- `BIT` is dead at `LatchLow`, whose step goes on to `ExtractBit`. -/
theorem observe_setBit_latchLow (k : Nat) (s : State) (b : Bool) (h : s.phase = .latchLow) :
    observe k (s.setBit b) = observe k s := by
  cases k with
  | zero => rfl
  | succ k =>
    have p : s.phase ≠ .idle := by simp [h]
    refine observe_succ_congr (step_busy (s.setBit b) p) (step_busy s p) (by simp [stepEvents, h]) ?_
    rw [phaseStep_latchLow (s.setBit b) h, phaseStep_latchLow s h]
    exact observe_setBit_extractBit k ((s.setOut ⟨s.out.data, s.out.shcp, .low⟩).setPhase .extractBit) b rfl

/-- The capture of a frame overwrites `VAL`, `ORD` and `CNT`, so that `BIT` alone is left to differ (R94). -/
theorem captureFrame_of_agree {s₁ s₂ : State} (h : agreeButWorking s₁ s₂) (o : Order) (v : Byte)
    (ws : List CmdWord) : captureFrame o v (s₁.setOffers ws) = (captureFrame o v (s₂.setOffers ws)).setBit s₁.bit := by
  obtain ⟨⟨p₁, c₁, v₁, o₁, b₁, cfg, out, t, q⟩, ws, d⟩ := s₁
  obtain ⟨⟨p₂, c₂, v₂, o₂, b₂, cfg, out, t, q⟩, ws, d⟩ := s₂
  obtain ⟨rfl, rfl, rfl, rfl, rfl, rfl, rfl⟩ := h
  rfl

/-- Settles O8, by induction on the number of steps: a step at `Idle` or `Configure` either leads to such a pair of
states again, or captures a frame, whose runs differ in a dead `BIT` alone. -/
theorem workingRegistersAreDeadBetweenCommands : Obligations.WorkingRegistersAreDeadBetweenCommands := by
  intro s₁ s₂ hp h k
  induction k generalizing s₁ s₂ with
  | zero =>
    obtain ⟨-, hcfg, hout, ht, hq, -, -⟩ := h
    simp [observe, hcfg, hout, ht, hq]
  | succ k ih =>
    have ⟨hphase, hcfg, hout, ht, hq, hoffers, hdraws⟩ := h
    have he : stepEvents s₁ = stepEvents s₂ := by
      obtain p | p := hp <;> simp [stepEvents, ← hphase, p]
    obtain p | ⟨p, e⟩ | ⟨w, ws, p, e, b⟩ | ⟨w, ws, p, e, b, c⟩ | ⟨w, ws, p, e, b, c⟩ := step_situations s₁
    · have p₁ : s₁.phase = .configure := hp.resolve_left p
      have p₂ : s₂.phase = .configure := hphase ▸ p₁
      refine observe_succ_congr (step_busy s₁ p) (step_busy s₂ (hphase ▸ p)) he (ih _ _ ?_ ?_)
      · simp [phaseStep_configure s₁ p₁]
      · simp [phaseStep_configure s₁ p₁, phaseStep_configure s₂ p₂, agreeButWorking, hout, ht, hq, hoffers, hdraws]
    · exact observe_succ_congr (step_nothing_offered s₁ p e)
        (step_nothing_offered s₂ (hphase ▸ p) (hoffers ▸ e)) he (ih s₁ s₂ hp h)
    · refine observe_succ_congr (step_accepts_init p e b)
        (step_accepts_init (hphase ▸ p) (hoffers ▸ e) b) he (ih _ _ (.inr rfl) ?_)
      simp [agreeButWorking, hcfg, hout, ht, hq, hdraws]
    · refine observe_succ_congr (step_accepts_wrb p e b c)
        (step_accepts_wrb (hphase ▸ p) (hoffers ▸ e) b (hcfg ▸ c)) he ?_
      rw [captureFrame_of_agree h]
      exact observe_setBit_latchLow k _ s₁.bit rfl
    · rw [observe_succ_of_refused (step_refuses_wrb p e b c),
        observe_succ_of_refused (step_refuses_wrb (hphase ▸ p) (hoffers ▸ e) b (hcfg ▸ c))]

/-! ### The outside of the machine is input -/

/-- The input of the next step of the machine: the word on the port and the answer the next draw has. -/
def inputOf (s : State) : MachineInput := { cmd := offeredWord s, answer := Config.edgeDraw s.draws }

theorem exec_eq_lift_accept (i : Instr) (s : State) : exec i s = s.lift (s.toMachineState.accept i) := by
  cases i <;> rfl

theorem stepAsksDraw_idle {m : MachineState} (h : m.phase = .idle) : m.stepAsksDraw = false := by
  rw [MachineState.stepAsksDraw, h]

/-- What a step makes of the outside, the machine's own outcome given. -/
def State.afterStep (s : State) : MachineResult → Result
  | .next m => .next
      { toMachineState := m
        offers := if s.phase = .idle then s.offers.tail else s.offers
        draws := if s.stepAsksDraw then s.draws + 1 else s.draws }
  | .fault r => .fault r
  | .refused r => .refused r

theorem step_eq_afterStep (s : State) : step s = s.afterStep (s.toMachineState.step (inputOf s)) := by
  by_cases p : s.phase = .idle
  · have hd := stepAsksDraw_idle p
    cases e : s.offers with
    | nil =>
      have hm : s.toMachineState.step (inputOf s) = .next s.toMachineState := by
        simp [MachineState.step, p, inputOf, offeredWord, e]
      rw [step_nothing_offered s p e, hm, State.afterStep, if_pos p, hd, e, List.tail_nil, ← e]
      rfl
    | cons w ws =>
      have hm : s.toMachineState.step (inputOf s) = s.toMachineState.accept (decode w) := by
        simp [MachineState.step, p, inputOf, offeredWord, e]
      rw [step_offered s w ws p e, exec_eq_lift_accept, hm, State.setOffers_toMachineState]
      cases s.toMachineState.accept (decode w) <;>
        simp [State.afterStep, State.lift, State.withMachine, State.setOffers, p, hd, e]
  · have hm : s.toMachineState.step (inputOf s) = .next (s.toMachineState.phaseStep (Config.edgeDraw s.draws)) := by
      simp [MachineState.step, p, inputOf]
    rw [step_busy s p, hm]
    simp [State.afterStep, p, phaseStep, State.setDraws, State.withMachine]

theorem machineStep_of_step_next {s s' : State} (h : step s = .next s') :
    s.toMachineState.step (inputOf s) = .next s'.toMachineState := by
  rw [step_eq_afterStep] at h
  cases e : s.toMachineState.step (inputOf s) with
  | next m => rw [e] at h; cases h; rfl
  | fault r => cases r
  | refused r => rw [e] at h; cases h

theorem machineStep_of_step_refused {s : State} {r : Refusal} (h : step s = .refused r) :
    s.toMachineState.step (inputOf s) = .refused r := by
  rw [step_eq_afterStep] at h
  cases e : s.toMachineState.step (inputOf s) with
  | next m => rw [e] at h; cases h
  | fault r => cases r
  | refused r' => rw [e] at h; cases h; rfl

theorem runSteps_next_is_machine_run (k : Nat) (s s' : State) (h : runSteps k s = .next s') :
    ∃ inputs : List MachineInput, inputs.length = k ∧ s.toMachineState.run inputs = .next s'.toMachineState := by
  induction k generalizing s with
  | zero => cases h; exact ⟨[], rfl, rfl⟩
  | succ k ih =>
    rw [runSteps_succ] at h
    cases e : step s with
    | next t =>
      rw [e] at h
      obtain ⟨inputs, hlen, hrun⟩ := ih t h
      exact ⟨inputOf s :: inputs, by simp [hlen], by rw [MachineState.run, machineStep_of_step_next e, ← hrun]⟩
    | fault r => cases r
    | refused r => rw [e] at h; cases h

theorem runSteps_refused_is_machine_run (k : Nat) (s : State) (r : Refusal) (h : runSteps k s = .refused r) :
    ∃ inputs : List MachineInput, inputs.length ≤ k ∧ s.toMachineState.run inputs = .refused r := by
  induction k generalizing s with
  | zero => cases h
  | succ k ih =>
    rw [runSteps_succ] at h
    cases e : step s with
    | next t =>
      rw [e] at h
      obtain ⟨inputs, hlen, hrun⟩ := ih t h
      exact ⟨inputOf s :: inputs, by simpa using hlen, by rw [MachineState.run, machineStep_of_step_next e, ← hrun]⟩
    | fault r => cases r
    | refused r' =>
      rw [e] at h
      cases h
      exact ⟨[inputOf s], by simp, by rw [MachineState.run, machineStep_of_step_refused e]⟩

/-- Settles O58: the step by its three situations, the runs by induction on the number of steps. -/
theorem stepIsTheMachinesStep : Obligations.StepIsTheMachinesStep := by
  refine ⟨fun s => ?_, runSteps_next_is_machine_run, runSteps_refused_is_machine_run⟩
  rw [step_eq_afterStep]
  rfl

/-- Settles O57: a step is `State.afterStep` of the machine's step, whose argument and input the two points share. -/
theorem theOutsideIsOnlyInput : Obligations.TheOutsideIsOnlyInput := by
  intro s₁ s₂ hm hw hd
  have hin : inputOf s₁ = inputOf s₂ := by rw [inputOf, inputOf, hw, hd]
  refine ⟨by rw [stepEvents, stepEvents, hm], ?_⟩
  have hphase : s₁.phase = s₂.phase := by rw [hm]
  rw [step_eq_afterStep s₁, step_eq_afterStep s₂, hm, hin]
  cases s₂.toMachineState.step (inputOf s₂) with
  | next m =>
    refine .inr ⟨_, _, rfl, rfl, rfl, fun p => ?_, fun p => ?_, if s₂.stepAsksDraw then 1 else 0, ?_, ?_, ?_⟩
    · exact ⟨if_pos (hphase.trans p), if_pos p⟩
    · exact ⟨if_neg (hphase ▸ p), if_neg p⟩
    · split <;> omega
    · rw [hm]; cases s₂.stepAsksDraw <;> rfl
    · cases s₂.stepAsksDraw <;> rfl
  | fault r => cases r
  | refused r => exact .inl ⟨r, rfl, rfl⟩

/-! ### The machine reads its input where it asks for it -/

theorem machineStep_busy {m : MachineState} (input : MachineInput) (h : m.phase ≠ .idle) :
    m.step input = .next (m.phaseStep input.answer) := if_neg h

/-- The answer to a draw that a clock line does not ask is not read (R122, R143). -/
theorem setHigh_answer_irrelevant {n : Line} {m : MachineState} (h : m.asksDraw n = false) (a a' : Bool) :
    m.setHigh n a = m.setHigh n a' := by
  have hedge : m.risingEdge n a = m.risingEdge n a' := by
    cases e : m.lineLevel n with
    | low => simp [MachineState.risingEdge, e]
    | high => simp [MachineState.risingEdge, e]
    | u => simp [MachineState.asksDraw, e] at h
  cases n with
  | data => rfl
  | shcp => simp [MachineState.setHigh, MachineState.reactToShiftClock, hedge]
  | stcp => simp [MachineState.setHigh, MachineState.reactToLatchClock, hedge]

theorem machinePhaseStep_answer_irrelevant {m : MachineState} (h : m.stepAsksDraw = false) (a a' : Bool) :
    m.phaseStep a = m.phaseStep a' := by
  cases p : m.phase with
  | pulseClockHigh =>
    have hd : m.asksDraw .shcp = false := by simpa [MachineState.stepAsksDraw, p] using h
    simp [MachineState.phaseStep, p, MachineState.stepPulseClockHigh, setHigh_answer_irrelevant hd a a']
  | pulseLatch =>
    have hd : m.asksDraw .stcp = false := by simpa [MachineState.stepAsksDraw, p] using h
    simp [MachineState.phaseStep, p, MachineState.stepPulseLatch, setHigh_answer_irrelevant hd a a']
  | _ => simp [MachineState.phaseStep, p]

theorem stepAsksDraw_iff (m : MachineState) : m.stepAsksDraw = true ↔
    (m.phase = .pulseClockHigh ∧ m.lineLevel .shcp = .u) ∨ (m.phase = .pulseLatch ∧ m.lineLevel .stcp = .u) := by
  cases p : m.phase <;> simp [MachineState.stepAsksDraw, p, MachineState.asksDraw]

/-- Settles O59: the step of a phase takes the answer alone, and reads it in a clock line's `setHigh` from `U`. -/
theorem inputIsReadOnlyWhereAsked : Obligations.InputIsReadOnlyWhereAsked := by
  refine ⟨fun m c c' a p => ?_, fun m c a a' h => ?_, stepAsksDraw_iff⟩
  · rw [machineStep_busy _ p, machineStep_busy _ p]
    exact ⟨rfl, _, rfl⟩
  · by_cases p : m.phase = .idle
    · rw [MachineState.step, MachineState.step, if_pos p, if_pos p]
    · rw [machineStep_busy _ p, machineStep_busy _ p, machinePhaseStep_answer_irrelevant h a a']

/-! ### Reset -/

theorem Stages.get_unknown (k : Fin 8) : Stages.unknown.get k = .u := by
  fin_cases k <;> rfl

/-- Settles O1: the table is read off `MachineState.resetAt`; any values of what it leaves open make a `ResetChoice`. -/
theorem resetGivesTheTabledValues : Obligations.ResetGivesTheTabledValues := by
  refine ⟨fun c => ?_, fun l cnt val ord bit => ?_, ResetChoice.default, rfl, rfl⟩
  · exact ⟨rfl, rfl, rfl, Stages.get_unknown, Stages.get_unknown, rfl, rfl⟩
  · exact ⟨⟨l, cnt, val, ord, bit⟩, rfl, rfl, rfl, rfl, rfl⟩

/-! ### The laws of the sequencer -/

/-- What R104's table states alike for the five phases of a bit. -/
def LawsInBit (s : State) : Prop :=
  allOutputs s.cfg = true ∧ s.cnt.toNat ≤ 7 ∧ s.out.stcp = .low ∧ remainingValue s

/-- The table of R104 by its rows: the laws that bear on a state in each phase. -/
def LawsAt (s : State) : Phase → Prop
  | .idle | .configure => True
  | .latchLow => allOutputs s.cfg = true ∧ s.cnt = 0#4
  | .extractBit => LawsInBit s ∧ (s.cnt ≠ 0#4 → s.out.shcp = .low)
  | .driveData => LawsInBit s ∧ (s.cnt ≠ 0#4 → s.out.shcp = .low) ∧ s.bit = extractedBit s.ord s.val
  | .pulseClockHigh => LawsInBit s ∧ (s.cnt ≠ 0#4 → s.out.shcp = .low) ∧ s.bit = extractedBit s.ord s.val ∧
      s.out.data = lvl s.bit
  | .pulseClockLow => LawsInBit s ∧ s.out.shcp = .high ∧ s.bit = extractedBit s.ord s.val ∧ s.out.data = lvl s.bit
  | .shiftValue => LawsInBit s ∧ s.out.shcp = .low ∧ s.bit = extractedBit s.ord s.val ∧ s.out.data = lvl s.bit
  | .pulseLatch => allOutputs s.cfg = true ∧ s.cnt = 8#4 ∧ s.out.stcp = .low ∧ s.out.shcp = .low ∧ remainingValue s

/-- The laws read by columns (`SequencerInv`) and by rows (`LawsAt`): every law has its phases as a premise, and a row is
what the eleven laws leave once the phase is fixed. -/
theorem sequencerInv_iff (s : State) : SequencerInv s ↔ LawsAt s s.phase := by
  constructor
  · rintro ⟨⟩
    cases h : s.phase <;>
      simp_all [LawsAt, LawsInBit, Phase.inFrame, Phase.inBit, Phase.beforeClock, Phase.bitHeld, Phase.dataDriven]
  · intro hl
    cases h : s.phase <;> rw [h] at hl <;> constructor <;>
      simp_all [LawsAt, LawsInBit, Phase.inFrame, Phase.inBit, Phase.beforeClock, Phase.bitHeld, Phase.dataDriven]

/-- Settles O37: no law bears on an engine at `Idle`. -/
theorem resetMeetsTheSequencerLaws : Obligations.ResetMeetsTheSequencerLaws :=
  fun c => (sequencerInv_iff (State.resetAt c)).2 trivial

theorem shiftedValue_msf (v : Byte) : shiftedValue .msf v = v <<< 1 := by
  refine BitVec.eq_of_getLsbD_eq fun i hi => ?_
  rw [shiftedValue, BitVec.getLsbD_append]
  interval_cases i <;> simp

theorem shiftedValue_lsf (v : Byte) : shiftedValue .lsf v = v >>> 1 := by
  refine BitVec.eq_of_getLsbD_eq fun i hi => ?_
  rw [shiftedValue, BitVec.getLsbD_append]
  interval_cases i <;> simp

theorem remainingValue_of_cnt_zero {s : State} (h : s.cnt = 0#4) : remainingValue s := by
  cases o : s.ord
  · simp [remainingValue, o, h, Nat.mod_one]
  · simpa [remainingValue, o, h] using s.val.isLt

theorem toNat_count_succ {c : Count} (h : c.toNat ≤ 7) : (c + 1#4).toNat = c.toNat + 1 := by
  bv_omega

/-- One more shift leaves a multiple of the next power of two, or a value of one bit less (R86). -/
theorem remainingValue_shift {s : State} (h : s.cnt.toNat ≤ 7) (hr : remainingValue s) :
    remainingValue ((s.setVal (shiftedValue s.ord s.val)).setCnt (s.cnt + 1#4)) := by
  have hc := toNat_count_succ h
  cases o : s.ord
  · have hdvd : 2 ^ s.cnt.toNat ∣ s.val.toNat := Nat.dvd_of_mod_eq_zero (by simpa [remainingValue, o] using hr)
    have h256 : 2 ^ (s.cnt.toNat + 1) ∣ 256 := pow_dvd_pow 2 (by omega : s.cnt.toNat + 1 ≤ 8)
    have htwice : 2 ^ (s.cnt.toNat + 1) ∣ s.val.toNat * 2 := mul_dvd_mul_right hdvd 2
    simpa [remainingValue, o, hc, shiftedValue_msf, Nat.shiftLeft_eq] using
      Nat.mod_eq_zero_of_dvd ((Nat.dvd_mod_iff h256).2 htwice)
  · have hlt : s.val.toNat < 2 ^ (8 - s.cnt.toNat) := by simpa [remainingValue, o] using hr
    have hpow : 2 ^ (8 - s.cnt.toNat) = 2 * 2 ^ (7 - s.cnt.toNat) := by
      rw [← Nat.pow_succ']
      congr 1
      omega
    simpa [remainingValue, o, hc, shiftedValue_lsf, Nat.shiftRight_eq_div_pow] using
      Nat.div_lt_of_lt_mul (hlt.trans_eq hpow)

/-- The laws of `ShiftValue` give those of its two successors: eight bits are done, or one more begins (R101). -/
theorem lawsAt_shiftValue {s : State} (h : LawsAt s .shiftValue) :
    LawsAt (((s.setVal (shiftedValue s.ord s.val)).setCnt (s.cnt + 1#4)).setPhase (afterShiftValue s.cnt))
      (afterShiftValue s.cnt) := by
  obtain ⟨⟨hcfg, hcnt, hstcp, hrem⟩, hshcp, -, -⟩ := h
  have hrem' := remainingValue_shift hcnt hrem
  by_cases h8 : s.cnt + 1#4 = 8#4
  · rw [afterShiftValue, if_pos h8]
    exact ⟨hcfg, h8, hstcp, hshcp, hrem'⟩
  · rw [afterShiftValue, if_neg h8]
    have hcnt' : (s.cnt + 1#4).toNat ≤ 7 := by bv_omega
    exact ⟨⟨hcfg, hcnt', hstcp, hrem'⟩, fun _ => hshcp⟩

/-- Each row of the table leads to the row of the next phase. -/
theorem lawsAt_phaseStep {s : State} (h : LawsAt s s.phase) : LawsAt (phaseStep s) (successor s.phase s.cnt) := by
  cases p : s.phase <;> rw [p] at h
  case idle | configure | pulseLatch => trivial
  case latchLow =>
    obtain ⟨hcfg, hcnt⟩ := h
    rw [phaseStep_latchLow s p]
    exact ⟨⟨hcfg, by simp [hcnt], rfl, remainingValue_of_cnt_zero (s := s) hcnt⟩, fun hne => absurd hcnt hne⟩
  case extractBit =>
    obtain ⟨⟨hcfg, hcnt, hstcp, hrem⟩, hshcp⟩ := h
    rw [phaseStep_extractBit s p]
    exact ⟨⟨hcfg, hcnt, hstcp, hrem⟩, hshcp, rfl⟩
  case driveData =>
    obtain ⟨⟨hcfg, hcnt, hstcp, hrem⟩, hshcp, hbit⟩ := h
    rw [phaseStep_driveData s p]
    exact ⟨⟨hcfg, hcnt, hstcp, hrem⟩, hshcp, hbit, rfl⟩
  case pulseClockHigh =>
    obtain ⟨⟨hcfg, hcnt, hstcp, hrem⟩, -, hbit, hdata⟩ := h
    rw [phaseStep_pulseClockHigh s p]
    exact ⟨⟨hcfg, hcnt, hstcp, hrem⟩, rfl, hbit, hdata⟩
  case pulseClockLow =>
    obtain ⟨⟨hcfg, hcnt, hstcp, hrem⟩, -, hbit, hdata⟩ := h
    rw [phaseStep_pulseClockLow s p]
    exact ⟨⟨hcfg, hcnt, hstcp, hrem⟩, rfl, hbit, hdata⟩
  case shiftValue =>
    rw [phaseStep_shiftValue s p]
    exact lawsAt_shiftValue h

/-- Settles O38: a busy step goes from row to row of the table; at `Idle` a step changes nothing, or goes to
`Configure`, or captures a frame on configured lines with `CNT` 0. -/
theorem stepKeepsTheSequencerLaws : Obligations.StepKeepsTheSequencerLaws := by
  intro s s' hinv hs
  obtain ⟨-, rfl⟩ | ⟨-, -, rfl⟩ | ⟨w, ws, -, -, -, rfl⟩ | ⟨w, ws, -, -, -, c, rfl⟩ := step_next_cases hs
  · rw [sequencerInv_iff, phaseStep_phase]
    exact lawsAt_phaseStep ((sequencerInv_iff s).1 hinv)
  · exact hinv
  · exact (sequencerInv_iff _).2 trivial
  · exact (sequencerInv_iff _).2 ⟨c, rfl⟩

/-! ### The frame as a whole -/

theorem shiftedBy_msf (n : Nat) (v : Byte) : shiftedBy .msf n v = v <<< n := by
  induction n with
  | zero => simp [shiftedBy_zero]
  | succ n ih => rw [shiftedBy_succ, ih, shiftedValue_msf, ← BitVec.shiftLeft_add]

theorem shiftedBy_lsf (n : Nat) (v : Byte) : shiftedBy .lsf n v = v >>> n := by
  induction n with
  | zero => simp [shiftedBy_zero]
  | succ n ih => rw [shiftedBy_succ, ih, shiftedValue_lsf, ← BitVec.shiftRight_add]

theorem shiftedBy_eight (o : Order) (v : Byte) : shiftedBy o 8 v = 0#8 := by
  cases o
  · rw [shiftedBy_msf, BitVec.shiftLeft_eq_zero (by decide)]
  · rw [shiftedBy_lsf, BitVec.ushiftRight_eq_zero (by decide)]

/-- The bit the frame extracts after `n` shifts. -/
def nthBit (o : Order) (v : Byte) (n : Nat) : Bool := extractedBit o (shiftedBy o n v)

/-- The bits extracted are the bits sent (R86, R44, R45). -/
theorem nthBit_eq_sentBit (o : Order) (v : Byte) (k : Fin 8) : nthBit o v k = sentBit o v k := by
  cases o
  · have hk : ¬ 7 < k.val := by omega
    rw [nthBit, shiftedBy_msf, extractedBit, BitVec.getLsbD_shiftLeft]
    simp [sentBit, hk]
  · simp [nthBit, shiftedBy_lsf, extractedBit, sentBit]

/-- The chain after `n + 1` bits of a frame that starts from `s`: the first shift needs a rising edge (R122). -/
def chainAfter (s : State) : Nat → Stages
  | 0 => if risingEdge .shcp s then s.t.shiftIn (tri (nthBit s.ord s.val 0)) else s.t
  | n + 1 => (chainAfter s n).shiftIn (tri (nthBit s.ord s.val (n + 1)))

/-- The state after `n + 1` bits of a frame that starts from `s`. -/
def afterBits (s : State) (n : Nat) : State :=
  { s with
    phase := afterShiftValue (BitVec.ofNat 4 n)
    cnt := BitVec.ofNat 4 (n + 1)
    val := shiftedBy s.ord (n + 1) s.val
    bit := nthBit s.ord s.val n
    out := ⟨lvl (nthBit s.ord s.val n), .low, s.out.stcp⟩
    t := chainAfter s n
    draws := drawsAfter .shcp s }

theorem bitReturn_eq_afterBits {s : State} (h : s.cnt = 0#4) : bitReturn s = afterBits s 0 := by
  rw [bitReturn, h]
  rfl

/-- Every bit but the first finds ShiftClock low, and so shifts and asks no draw. -/
theorem bitReturn_afterBits {s : State} (c : s.cfg = ⟨true, true, true⟩) (n : Nat) :
    bitReturn (afterBits s n) = afterBits s (n + 1) := by
  have hlow : (afterBits s n).lineLevel .shcp = .low :=
    lineLevel_of_configured (afterBits s n) .shcp (by simp [afterBits, c])
  obtain ⟨hedge, hdraws⟩ := risingEdge_low .shcp (afterBits s n) hlow
  have hcnt : BitVec.ofNat 4 (n + 1) + 1#4 = BitVec.ofNat 4 (n + 1 + 1) := (BitVec.ofNat_add ..).symm
  rw [bitReturn, hedge, hdraws]
  simp only [afterBits, hcnt, shiftedBy_succ s.ord (n + 1)]
  rfl

theorem afterShiftValue_of_lt {n : Nat} (h : n < 7) : afterShiftValue (BitVec.ofNat 4 n) = .extractBit := by
  interval_cases n <;> rfl

theorem runSteps_afterBits {s : State} (h : s.phase = .extractBit) (c : s.cfg = ⟨true, true, true⟩)
    (hcnt : s.cnt = 0#4) (n : Nat) (hn : n ≤ 7) : runSteps (5 * (n + 1)) s = .next (afterBits s n) := by
  induction n with
  | zero => rw [← bitReturn_eq_afterBits hcnt]; exact runSteps_bit s h c
  | succ n ih =>
    have hphase : (afterBits s n).phase = .extractBit := afterShiftValue_of_lt (by omega)
    rw [Nat.mul_succ, runSteps_add _ 5 (ih (by omega)), runSteps_bit (afterBits s n) hphase c,
      bitReturn_afterBits c]

/-- Eight shifts replace the whole chain, seven leave the old stage 7 in stage 0 (R85). -/
theorem chainAfter_seven {s : State} (c : s.cfg = ⟨true, true, true⟩) :
    chainAfter s 7 = frameChain s.ord s.val s := by
  have hlevel : s.lineLevel .shcp = s.out.shcp := lineLevel_of_configured s .shcp (by simp [c])
  have hbits (k : Fin 8) := nthBit_eq_sentBit s.ord s.val k
  have hchain : chainAfter s 7 =
      if risingEdge .shcp s then sentStages s.ord s.val else sentStagesFirstLost s.t s.ord s.val := by
    cases h : risingEdge .shcp s <;>
      simp [chainAfter, h, Stages.shiftIn, sentStagesFirstLost, sentStages, Stages.ofFn, ← hbits]
  rw [hchain, frameChain]
  cases h : s.out.shcp with
  | low => rw [(risingEdge_low .shcp s (hlevel.trans h)).1]; rfl
  | high => rw [(risingEdge_high .shcp s (hlevel.trans h)).1]; rfl
  | u => rw [(risingEdge_undetermined .shcp s (hlevel.trans h)).1]

theorem drawsAfter_shcp {s : State} (c : s.cfg = ⟨true, true, true⟩) :
    drawsAfter .shcp s = s.draws + frameDraws s := by
  have hlevel : s.lineLevel .shcp = s.out.shcp := lineLevel_of_configured s .shcp (by simp [c])
  rw [drawsAfter, frameDraws, hlevel]
  split <;> rfl

/-- The 42 steps after the capture: `LatchLow`, eight bits, `PulseLatch` (R96 to R102). -/
theorem runSteps_captureFrame {s : State} (c : s.cfg = ⟨true, true, true⟩) (o : Order) (v : Byte) :
    runSteps 42 (captureFrame o v s) = .next (frameReturn o v s) := by
  let s₁ := captureFrame o v s
  let s₂ := (s₁.setOut ⟨s₁.out.data, s₁.out.shcp, .low⟩).setPhase .extractBit
  have e₁ : step s₁ = .next s₂ := by rw [step_busy s₁ (by simp [s₁]), phaseStep_latchLow s₁ rfl]
  have e₂ : runSteps 40 s₂ = .next (afterBits s₂ 7) := runSteps_afterBits (s := s₂) rfl c rfl 7 le_rfl
  have e₃ : step (afterBits s₂ 7) = .next (frameReturn o v s) := by
    have hlatch : (afterBits s₂ 7).phase = .pulseLatch := rfl
    have hlow : (afterBits s₂ 7).lineLevel .stcp = .low :=
      lineLevel_of_configured (afterBits s₂ 7) .stcp (by simp [afterBits, s₂, s₁, c])
    obtain ⟨hedge, hdraws⟩ := risingEdge_low .stcp (afterBits s₂ 7) hlow
    have hchain : chainAfter s₂ 7 = frameChain o v s := chainAfter_seven (s := s₂) c
    have hn : drawsAfter .shcp s₂ = s.draws + frameDraws s := drawsAfter_shcp (s := s₂) c
    have hbit : nthBit o v 7 = sentBit o v 7 := nthBit_eq_sentBit o v 7
    rw [step_busy _ (by simp [hlatch]), phaseStep_pulseLatch _ hlatch, setHigh_stcp, hedge, hdraws]
    simp only [afterBits, hchain, hn]
    rw [frameReturn, ← shiftedBy_eight o v, ← hbit]
    rfl
  rw [runSteps_succ_of_next e₁, runSteps_add 40 1 e₂, runSteps_succ_of_next e₃, runSteps_zero]

theorem exec_writeByte (o : Order) (v : Byte) (s : State) : exec (writeByte o v) s = acceptFrame o v s := by
  cases o <;> rfl

/-- A `WRB` from acceptance to return, as R83 to R86 give it. -/
theorem perform_writeByte {s : State} (h : s.phase = .idle) (c : s.cfg = ⟨true, true, true⟩) (o : Order) (v : Byte) :
    perform (writeByte o v) s = .next (frameReturn o v s) := by
  have hsteps : commandSteps (writeByte o v) - 1 = 42 := by cases o <;> rfl
  rw [perform, exec_writeByte, acceptFrame_idle o v s h (by rw [c]; rfl), hsteps]
  exact runSteps_captureFrame c o v

/-- An `INIT` from acceptance to return (R80). -/
theorem perform_init {s : State} (h : s.phase = .idle) : perform .init s = .next (initReturn s) := by
  have e : step (s.setPhase .configure) = .next (initReturn s) := by
    rw [step_busy _ (by simp), phaseStep_configure _ rfl, initReturn, ← h]
    rfl
  rw [perform, exec, execInit_idle s h]
  exact runSteps_succ_of_next e

/-- Settles O9: from a low ShiftClock `frameReturn` reads nothing of the old levels and contents, and `initReturn`
changes `CFG` alone. -/
theorem whatACommandOverwrites : Obligations.WhatACommandOverwrites := by
  refine ⟨fun o v s₁ s₂ p₁ p₂ c₁ c₂ l₁ l₂ => ?_, fun s p => ?_⟩
  · have hchain : frameChain o v s₁ = frameChain o v s₂ := by rw [frameChain, frameChain, l₁, l₂]
    exact ⟨_, _, perform_writeByte p₁ c₁ o v, perform_writeByte p₂ c₂ o v, rfl, hchain, hchain, rfl⟩
  · exact ⟨_, perform_init p, rfl, rfl, rfl, rfl, rfl, rfl, rfl⟩

end Sys2Proof.Machine
end

section
/-! The statements of 30_encoding.md: encoding, the opcode map, the assembler's words and the command port. The two `WRB`
commands are spoken of together, as `writeByte` of an order. -/

namespace Sys2Proof.Machine

/-! ### A `WRB` word by its fields (R61, R71) -/

theorem getLsbD_encode_writeByte (o : Order) (v : Byte) (k : Nat) :
    (encode (writeByte o v)).getLsbD k =
      (decide (k = 9) || (decide (k = 8) && decide (o = .lsf)) || (decide (k < 8) && v.getLsbD k)) := by
  cases o
  · simp [writeByte, getLsbD_encode_wrbMsf]
  · simp [writeByte, getLsbD_encode_wrbLsf]

theorem ordField_encode_writeByte (o : Order) (v : Byte) : ordField (encode (writeByte o v)) = o := by
  rw [ordField, getLsbD_encode_writeByte]
  cases o <;> rfl

theorem valueField_encode_writeByte (o : Order) (v : Byte) : valueField (encode (writeByte o v)) = v := by
  refine BitVec.eq_of_getLsbD_eq fun k hk => ?_
  have hne8 : k ≠ 8 := by omega
  have hne9 : k ≠ 9 := by omega
  rw [getLsbD_valueField, getLsbD_encode_writeByte]
  simp [hk, hne8, hne9]

theorem decode_wrb {w : CmdWord} (h9 : w.getLsbD 9 = true) : decode w = writeByte (ordField w) (valueField w) := by
  cases h8 : w.getLsbD 8
  · rw [decode_wrbMsf h9 h8, ordField, h8]; rfl
  · rw [decode_wrbLsf h9 h8, ordField, h8]; rfl

theorem getLsbD_eight (w : CmdWord) : w.getLsbD 8 = decide (ordField w = .lsf) := by
  rw [ordField]
  cases w.getLsbD 8 <;> rfl

theorem encode_fields {w : CmdWord} (h9 : w.getLsbD 9 = true) :
    encode (writeByte (ordField w) (valueField w)) = w := by
  refine BitVec.eq_of_getLsbD_eq fun k hk => ?_
  rw [getLsbD_encode_writeByte, getLsbD_valueField]
  obtain h | rfl | rfl : k < 8 ∨ k = 8 ∨ k = 9 := by omega
  · have hne8 : k ≠ 8 := by omega
    have hne9 : k ≠ 9 := by omega
    simp [h, hne8, hne9]
  · simpa using (getLsbD_eight w).symm
  · simpa using h9.symm

/-! ### The decoder and the encoder (R71) -/

theorem decode_encode_writeByte (o : Order) (v : Byte) : decode (encode (writeByte o v)) = writeByte o v := by
  have h9 : (encode (writeByte o v)).getLsbD 9 = true := getLsbD_encode_writeByte o v 9
  rw [decode_wrb h9, ordField_encode_writeByte, valueField_encode_writeByte]

theorem decode_encode (i : Instr) : decode (encode i) = i := by
  cases i with
  | init => rfl
  | wrbMsf v => exact decode_encode_writeByte .msf v
  | wrbLsf v => exact decode_encode_writeByte .lsf v

theorem encode_decode_wrb {w : CmdWord} (h9 : w.getLsbD 9 = true) : encode (decode w) = w := by
  rw [decode_wrb h9, encode_fields h9]

theorem encode_decode_init {w : CmdWord} (h9 : w.getLsbD 9 = false) : encode (decode w) = 0x000#10 := by
  rw [decode_init h9]; rfl

/-- Settles O11: a `WRB` word is its two fields and back (`valueField_encode_writeByte`, `encode_fields`); an `INIT` word
keeps nothing but its kind. -/
theorem decodeAndEncodeAgree : Obligations.DecodeAndEncodeAgree :=
  ⟨⟨rfl, fun _ => rfl, fun _ => rfl⟩, decode_encode, fun _ => encode_decode_wrb, fun _ => encode_decode_init⟩

/-! ### The command port (R66) -/

/-- A command that is run at `Idle` takes the engine out of `Idle` and leaves the words still offered alone. -/
theorem exec_leaves_idle {i : Instr} {s t : State} (h : s.phase = .idle) (e : exec i s = .next t) :
    t.phase ≠ .idle ∧ t.offers = s.offers := by
  obtain ⟨-, hi⟩ | ⟨o, v, -, -, hw⟩ | ⟨-, -, hr⟩ := exec_cases i s h
  · cases hi.symm.trans e
    simp
  · cases hw.symm.trans e
    simp
  · cases hr.symm.trans e

theorem phaseStep_setOffers (s : State) (ws : List CmdWord) :
    phaseStep (s.setOffers ws) = (phaseStep s).setOffers ws := rfl

theorem cmdReady_iff (m : MachineState) : m.cmdReady = true ↔ m.phase = .idle := decide_eq_true_iff

theorem cmdReady_eq_not_busy (m : MachineState) : m.cmdReady = !m.busy := by
  simp [MachineState.cmdReady, MachineState.busy]

/-- Settles O15: at `Idle` by what `exec` can answer there, at a busy engine because the step of a phase does not see the
words offered. -/
theorem commandPortHandshake : Obligations.CommandPortHandshake := by
  intro s
  refine ⟨cmdReady_iff s.toMachineState, cmdReady_eq_not_busy s.toMachineState, fun w ws p e => ?_, fun p => ?_⟩
  · have hstep := step_offered s w ws p e
    exact ⟨hstep, fun t ht => exec_leaves_idle (s := s.setOffers ws) p (hstep.symm.trans ht)⟩
  · exact ⟨fun i => exec_busy i s p, phaseStep s, step_busy s p, phaseStep_offers s,
      fun ws => by rw [step_busy (s.setOffers ws) p, phaseStep_setOffers]⟩

/-! ### The words of a `WRB` as numbers (R65, R69) -/

/-- The word of a `WRB` whose `VALUE` is 0, as a number. -/
def wrbBase : Order → Nat
  | .msf => 0x200
  | .lsf => 0x300

theorem encode_writeByte_ofNat (o : Order) {n : Nat} (h : n ≤ 255) :
    encode (writeByte o (BitVec.ofNat 8 n)) = BitVec.ofNat 10 (wrbBase o + n) := by
  apply BitVec.eq_of_toNat_eq
  cases o <;> simp [writeByte, encode, wrbBase] <;> omega

theorem decode_of_wrbBase_le (o : Order) {w : CmdWord} (h : wrbBase o ≤ w.toNat) (h' : w.toNat ≤ wrbBase o + 255) :
    decode w = writeByte o (BitVec.ofNat 8 (w.toNat - wrbBase o)) := by
  have hw : encode (writeByte o (BitVec.ofNat 8 (w.toNat - wrbBase o))) = w := by
    rw [encode_writeByte_ofNat o (by omega), Nat.add_sub_cancel' h, BitVec.ofNat_toNat, BitVec.setWidth_eq]
  rw [← decode_encode_writeByte, hw]

/-! ### The opcode map (R65) -/

theorem decode_eq_init_iff (w : CmdWord) : decode w = .init ↔ w.getLsbD 9 = false := by
  refine ⟨fun h => ?_, decode_init⟩
  by_contra h9
  rw [decode_wrb (by simpa using h9)] at h
  cases e : ordField w <;> simp [e, writeByte] at h

theorem decode_eq_writeByte_iff (w : CmdWord) (o : Order) :
    decode w = writeByte o (valueField w) ↔ w.getLsbD 9 = true ∧ w.getLsbD 8 = decide (o = .lsf) := by
  constructor
  · intro h
    have h9 : w.getLsbD 9 = true := by
      by_contra h9
      rw [decode_init (by simpa using h9)] at h
      cases o <;> cases h
    have ho : ordField w = o := by rw [← ordField_encode_writeByte o (valueField w), ← h, encode_decode_wrb h9]
    exact ⟨h9, by rw [getLsbD_eight, ho]⟩
  · rintro ⟨h9, h8⟩
    cases o
    · exact decode_wrbMsf h9 h8
    · exact decode_wrbLsf h9 h8

theorem selected (i : Instr) : Laws.Selected.Statement i := by
  cases i with
  | init => exact Laws.Selected.init
  | wrbMsf v => exact Laws.Selected.wrbMsf v
  | wrbLsf v => exact Laws.Selected.wrbLsf v

/-- Exactly one row of the map matches a word, and it is the row of the command the word decodes to. -/
theorem mnemonics_of_rows_selected (w : CmdWord) :
    (opcodeMap.filter fun r => r.selects w).map OpcodeRow.mnemonic = [(decode w).mnemonic] := by
  cases h9 : w.getLsbD 9
  · have hinit : w &&& 0x200#10 = 0x000#10 := (selects_init w).2 h9
    have hwrb : ∀ b : Bool, w &&& 0x300#10 ≠ if b then 0x300#10 else 0x200#10 := fun b h => by
      obtain ⟨h9', -⟩ := (selects_wrb w b).1 h
      rw [h9] at h9'
      cases h9'
    have hmsf : w &&& 0x300#10 ≠ 0x200#10 := hwrb false
    have hlsf : w &&& 0x300#10 ≠ 0x300#10 := hwrb true
    simp [opcodeMap, OpcodeRow.selects, hinit, hmsf, hlsf, decode_init h9, Instr.mnemonic]
  · have h := selected (decode w)
    rwa [Laws.Selected.Statement, encode_decode_wrb h9] at h

theorem decode_of_toNat_le {w : CmdWord} (h : w.toNat ≤ 0x1FF) : decode w = .init :=
  decode_init (Nat.testBit_lt_two_pow (by omega))

/-- Settles O10: the rows by the bits they look at (`selects_init`, `selects_wrb`), the ranges by the word that is
`wrbBase` and a byte. -/
theorem opcodeMapDecidesEveryWord : Obligations.OpcodeMapDecidesEveryWord := fun w =>
  ⟨(selects_init w).trans (decode_eq_init_iff w).symm,
    (selects_wrb w false).trans (decode_eq_writeByte_iff w .msf).symm,
    (selects_wrb w true).trans (decode_eq_writeByte_iff w .lsf).symm,
    mnemonics_of_rows_selected w,
    decode_of_toNat_le,
    fun h h' => decode_of_wrbBase_le .msf h h',
    fun h => decode_of_wrbBase_le .lsf h (Nat.le_of_lt_succ w.isLt)⟩

/-! ### Worked encodings and lines of assembly (R72, R69) -/

theorem decode_of_encode_eq {i : Instr} {w : CmdWord} (h : encode i = w) : decode w = i := h ▸ decode_encode i

/-- Settles O12: the words by evaluation, the other direction by `decode_encode`. -/
theorem workedEncodings : Obligations.WorkedEncodings := by
  have hmsf : encode (.wrbMsf 0b10110001#8) = 0b1010110001#10 := rfl
  have hlsf : encode (.wrbLsf 0b10110001#8) = 0b1110110001#10 := rfl
  exact ⟨hmsf, decode_of_encode_eq hmsf, hlsf, decode_of_encode_eq hlsf, rfl, rfl, rfl, rfl, rfl⟩

theorem assembleLine_wrb (o : Order) (imm : Nat) : assembleLine (.wrb o imm) =
    if imm ≤ 255 then some (writeByte o (BitVec.ofNat 8 imm)) else none := by
  cases o <;> simp [assembleLine, AsmLine.wf, writeByte]

theorem encode_assembleLine_wrb (o : Order) (imm : Nat) : (assembleLine (.wrb o imm)).map encode =
    if imm ≤ 255 then some (BitVec.ofNat 10 (wrbBase o + imm)) else none := by
  rw [assembleLine_wrb]
  split
  case isTrue h => rw [Option.map_some, encode_writeByte_ofNat o h]
  case isFalse => rfl

/-- Settles O13: the line is the `WRB` of its order, whose word is `wrbBase` and the literal. -/
theorem assemblyLinesGiveTheirWords : Obligations.AssemblyLinesGiveTheirWords :=
  ⟨rfl, encode_assembleLine_wrb .msf, encode_assembleLine_wrb .lsf⟩

end Sys2Proof.Machine
end

section
/-! The statements of 40_commands.md: the commands as a whole. The two `WRB` commands are spoken of together, as `writeByte`
of an order; their run is the capture, the `LatchLow` step, eight bits of five steps, and the `PulseLatch` step. -/

namespace Sys2Proof.Machine

/-! ### Extraction and shifting (R86) -/

/-- Settles O23: the iterated shift is `shiftedBy`, which is a shift by `j`; the bits extracted are the bits sent. -/
theorem extractionAndShifting : Obligations.ExtractionAndShifting := by
  intro v
  refine ⟨⟨rfl, shiftedValue_msf v⟩, ⟨rfl, shiftedValue_lsf v⟩, fun j _ => ?_, fun j _ => ?_, fun i _ _ => ?_,
    fun i _ _ => ?_, shiftedBy_eight .msf v, shiftedBy_eight .lsf v⟩
  · have h : (shiftedValue .msf)^[j] v = v <<< j := shiftedBy_msf j v
    rw [h, BitVec.toNat_shiftLeft, Nat.shiftLeft_eq]
  · have h : (shiftedValue .lsf)^[j] v = v >>> j := shiftedBy_lsf j v
    rw [h, BitVec.toNat_ushiftRight, Nat.shiftRight_eq_div_pow]
  · have h : nthBit .msf v (i - 1) = v.getLsbD (7 - (i - 1)) := nthBit_eq_sentBit .msf v ⟨i - 1, by omega⟩
    have hi : 7 - (i - 1) = 8 - i := by omega
    rwa [hi] at h
  · exact nthBit_eq_sentBit .lsf v ⟨i - 1, by omega⟩

/-! ### `INIT` (R80) -/

theorem commandTrace_init {s : State} (h : s.phase = .idle) :
    commandTrace .init s = [.configureAsOutput .data, .configureAsOutput .shcp, .configureAsOutput .stcp] := by
  have e : step (s.setPhase .configure) = .next (phaseStep (s.setPhase .configure)) := step_busy _ (by simp)
  rw [commandTrace, exec, execInit_idle s h]
  exact trace_succ_of_next (k := 0) e

theorem initReturn_of_configured {s : State} (c : s.cfg = ⟨true, true, true⟩) : initReturn s = s := by
  rw [initReturn, ← c]

/-- Settles O16: the acceptance, then the one `Configure` step. -/
theorem initConfiguresTheThreeLines : Obligations.InitConfiguresTheThreeLines := by
  refine ⟨⟨rfl, fun x => decode_init ?_⟩, fun s p => ⟨execInit_idle s p, perform_init p, commandTrace_init p, fun c => ?_⟩,
    fun s p => exec_busy .init s p⟩
  · rw [BitVec.getLsbD_append]
    rfl
  · rw [perform_init p, initReturn_of_configured c]

/-! ### The words and the acceptance of a `WRB` (R81, R82, R94) -/

/-- The two fields `OP` and `ORD` of a `WRB` word. -/
def wrbFields : Order → BitVec 2
  | .msf => 0b10#2
  | .lsf => 0b11#2

theorem encode_writeByte_eq_append (o : Order) (v : Byte) : encode (writeByte o v) = wrbFields o ++ v := by
  refine BitVec.eq_of_getLsbD_eq fun k hk => ?_
  rw [getLsbD_encode_writeByte, BitVec.getLsbD_append]
  obtain h | rfl | rfl : k < 8 ∨ k = 8 ∨ k = 9 := by omega
  · have hne8 : k ≠ 8 := by omega
    have hne9 : k ≠ 9 := by omega
    simp [h, hne8, hne9]
  · cases o <;> rfl
  · cases o <;> rfl

theorem decode_wrbFields_append (o : Order) (v : Byte) : decode (wrbFields o ++ v) = writeByte o v := by
  rw [← encode_writeByte_eq_append, decode_encode_writeByte]

theorem exec_writeByte_unconfigured {s : State} (h : s.phase = .idle) (c : s.cfg ≠ ⟨true, true, true⟩) (o : Order)
    (v : Byte) : exec (writeByte o v) s = .refused .wrbBeforeInit := by
  have hc : allOutputs s.cfg = false := Bool.eq_false_iff.2 fun hall => c (eq_of_allOutputs hall)
  rw [exec_writeByte, acceptFrame_unconfigured o v s h hc]

theorem exec_writeByte_idle {s : State} (h : s.phase = .idle) (c : s.cfg = ⟨true, true, true⟩) (o : Order) (v : Byte) :
    exec (writeByte o v) s = .next (captureFrame o v s) := by
  rw [exec_writeByte, acceptFrame_idle o v s h (by rw [c]; rfl)]

/-! ### The run of a frame: `LatchLow`, eight bits, `PulseLatch` -/

/-- The state the eight bits of a frame start from: captured, and LatchClock low (R94, R96). -/
def bitsStart (o : Order) (v : Byte) (s : State) : State :=
  ((captureFrame o v s).setOut ⟨s.out.data, s.out.shcp, .low⟩).setPhase .extractBit

@[simp] theorem bitsStart_phase (o : Order) (v : Byte) (s : State) : (bitsStart o v s).phase = .extractBit := rfl
@[simp] theorem bitsStart_cfg (o : Order) (v : Byte) (s : State) : (bitsStart o v s).cfg = s.cfg := rfl
@[simp] theorem afterBits_cfg (s : State) (n : Nat) : (afterBits s n).cfg = s.cfg := rfl

theorem step_captureFrame (o : Order) (v : Byte) (s : State) :
    step (captureFrame o v s) = .next (bitsStart o v s) := by
  rw [step_busy _ (by simp), phaseStep_latchLow _ rfl]
  rfl

theorem runSteps_bitsStart {s : State} (c : s.cfg = ⟨true, true, true⟩) (o : Order) (v : Byte) :
    runSteps 40 (bitsStart o v s) = .next (afterBits (bitsStart o v s) 7) :=
  runSteps_afterBits (s := bitsStart o v s) rfl c rfl 7 le_rfl

/-- Another bit follows each of the first seven, and the latch follows the eighth (R101). -/
theorem afterBits_phase_of_lt (s : State) {n : Nat} (hn : n < 7) : (afterBits s n).phase = .extractBit :=
  afterShiftValue_of_lt hn

@[simp] theorem afterBits_seven_phase (s : State) : (afterBits s 7).phase = .pulseLatch := rfl

theorem step_afterBits_seven (s : State) : step (afterBits s 7) = .next (phaseStep (afterBits s 7)) :=
  step_busy _ (by simp)

/-! ### The events of a frame (R83) -/

theorem trace_afterBits {s : State} (h : s.phase = .extractBit) (c : s.cfg = ⟨true, true, true⟩) (hcnt : s.cnt = 0#4)
    (n : Nat) (hn : n ≤ 7) :
    trace (5 * (n + 1)) s = (List.range (n + 1)).flatMap fun k => bitEvents (nthBit s.ord s.val k) := by
  induction n with
  | zero => simpa [nthBit, shiftedBy_zero] using trace_bit s h c
  | succ n ih =>
    have hphase : (afterBits s n).phase = .extractBit := afterBits_phase_of_lt s (by omega)
    have hbit : trace 5 (afterBits s n) = bitEvents (nthBit s.ord s.val (n + 1)) := trace_bit _ hphase c
    rw [Nat.mul_succ, trace_add _ 5 (runSteps_afterBits h c hcnt n (by omega)), ih (by omega), hbit,
      List.range_succ (n := n + 1), List.flatMap_append, List.flatMap_singleton]

theorem sentBits_eq_map_nthBit (o : Order) (v : Byte) : sentBits o v = (List.range 8).map (nthBit o v) := by
  have hbits : sentBit o v = fun k : Fin 8 => nthBit o v k := funext fun k => (nthBit_eq_sentBit o v k).symm
  rw [sentBits, hbits]
  rfl

theorem length_sentBits (o : Order) (v : Byte) : (sentBits o v).length = 8 := by
  simp [sentBits]

theorem trace_captureFrame {s : State} (c : s.cfg = ⟨true, true, true⟩) (o : Order) (v : Byte) :
    trace 42 (captureFrame o v s) = frameEvents (sentBits o v) := by
  have hbits : trace 40 (bitsStart o v s) = (sentBits o v).flatMap bitEvents := by
    rw [sentBits_eq_map_nthBit, List.flatMap_map]
    exact trace_afterBits (s := bitsStart o v s) rfl c rfl 7 le_rfl
  rw [trace_succ_of_next (step_captureFrame o v s), trace_add 40 1 (runSteps_bitsStart c o v), hbits,
    trace_succ_of_next (step_afterBits_seven _), trace_zero, List.append_nil]
  rfl

theorem commandTrace_writeByte {s : State} (h : s.phase = .idle) (c : s.cfg = ⟨true, true, true⟩) (o : Order)
    (v : Byte) : commandTrace (writeByte o v) s = frameEvents (sentBits o v) := by
  have hsteps : commandSteps (writeByte o v) - 1 = 42 := by cases o <;> rfl
  rw [commandTrace, exec_writeByte_idle h c, hsteps]
  exact trace_captureFrame c o v

/-- The write events of one bit (R88). -/
theorem filter_isWrite_bitEvents (b : Bool) : (bitEvents b).filter LineOp.isWrite =
    [if b then .setHigh .data else .setLow .data, .setHigh .shcp, .setLow .shcp] := by
  cases b <;> simp [bitEvents, driveEvent, waits, List.filter_cons, LineOp.isWrite]

/-- The write events of a frame (R88). -/
theorem filter_isWrite_frameEvents (bits : List Bool) : (frameEvents bits).filter LineOp.isWrite =
    [.setLow .stcp] ++ bits.flatMap (fun b =>
      [if b then .setHigh .data else .setLow .data, .setHigh .shcp, .setLow .shcp]) ++ [.setHigh .stcp] := by
  simp [frameEvents, waits, List.filter_cons, List.filter_flatMap, filter_isWrite_bitEvents, LineOp.isWrite]

/-- Settles O19: the events are `frameEvents`, three writes a bit among them and two more. -/
theorem stepMachineEmitsTheFrame : Obligations.StepMachineEmitsTheFrame := by
  intro o v s p c
  rw [commandTrace_writeByte p c]
  constructor
  · simp only [frameEvents, List.append_assoc]
    rfl
  · simp [filter_isWrite_frameEvents, length_sentBits]

/-! ### The state in which a `WRB` returns (R84, R85) -/

/-- Settles O22: the run of the sequencer is `perform_writeByte`. -/
theorem sequencerRefinesTheWholeCommand : Obligations.SequencerRefinesTheWholeCommand :=
  fun o v _ p c => perform_writeByte p c o v

/-- Settles O20: the levels `frameReturn` gives, the last bit sent being `VALUE[0]` or `VALUE[7]`. -/
theorem linesWhenWrbReturns : Obligations.LinesWhenWrbReturns := fun v _ p c =>
  ⟨⟨_, perform_writeByte p c .msf v, rfl, rfl, rfl⟩, ⟨_, perform_writeByte p c .lsf v, rfl, rfl, rfl⟩⟩

theorem get_sentStages (o : Order) (v : Byte) (k : Fin 8) : (sentStages o v).get k = tri (sentBit o v k) :=
  Stages.get_ofFn _ k

theorem get_sentStagesFirstLost (old : Stages) (o : Order) (v : Byte) {k : Fin 8} (hk : k ≠ 0) :
    (sentStagesFirstLost old o v).get k = tri (sentBit o v k) := by
  rw [← get_sentStages]
  fin_cases k
  · exact absurd rfl hk
  all_goals rfl

theorem frameChain_of_low {s : State} (l : s.out.shcp = .low) (o : Order) (v : Byte) :
    frameChain o v s = sentStages o v := by
  rw [frameChain, l]

/-- The normal case of R81 and R82. -/
theorem get_frameChain_of_low {s : State} (l : s.out.shcp = .low) (o : Order) (v : Byte) (k : Fin 8) :
    (frameChain o v s).get k = tri (sentBit o v k) := by
  rw [frameChain_of_low l, get_sentStages]

/-- R85 by what decides between its cases: whether the first `setHigh(SHCP)` of the frame is a rising edge. -/
theorem frameChain_eq {s : State} (c : s.cfg = ⟨true, true, true⟩) (o : Order) (v : Byte) : frameChain o v s =
    if risingEdge .shcp s then sentStages o v else sentStagesFirstLost s.t o v := by
  have hlevel : s.lineLevel .shcp = s.out.shcp := lineLevel_of_configured s .shcp (by simp [c])
  rw [frameChain]
  cases h : s.out.shcp with
  | low => rw [(risingEdge_low .shcp s (hlevel.trans h)).1]; rfl
  | high => rw [(risingEdge_high .shcp s (hlevel.trans h)).1]; rfl
  | u => rw [(risingEdge_undetermined .shcp s (hlevel.trans h)).1]

theorem get_frameChain {s : State} (c : s.cfg = ⟨true, true, true⟩) (o : Order) (v : Byte) {k : Fin 8} (hk : k ≠ 0) :
    (frameChain o v s).get k = tri (sentBit o v k) := by
  rw [frameChain_eq c]
  split
  · exact get_sentStages o v k
  · exact get_sentStagesFirstLost s.t o v hk

/-! ### The two bit orders (R87) -/

theorem getLsbD_reverseBits (v : Byte) (k : Fin 8) : (reverseBits v).getLsbD k = v.getLsbD (7 - k) := by
  rw [reverseBits]
  simp only [BitVec.getLsbD_append]
  fin_cases k <;> simp

theorem sentBit_lsf_reverseBits (v : Byte) : sentBit .lsf (reverseBits v) = sentBit .msf v :=
  funext (getLsbD_reverseBits v)

theorem sentBit_lsf_eq_msf_rev (v : Byte) (k : Fin 8) : sentBit .lsf v k = sentBit .msf v k.rev := by
  have hk : 7 - k.rev.val = k.val := by rw [Fin.val_rev]; omega
  rw [sentBit, sentBit, hk]

theorem commandTrace_wrbMsf_eq_wrbLsf_reverseBits {s : State} (h : s.phase = .idle) (c : s.cfg = ⟨true, true, true⟩)
    (v : Byte) : commandTrace (.wrbMsf v) s = commandTrace (.wrbLsf (reverseBits v)) s := by
  have hmsf := commandTrace_writeByte h c .msf v
  have hlsf := commandTrace_writeByte h c .lsf (reverseBits v)
  rw [sentBits, sentBit_lsf_reverseBits] at hlsf
  exact hmsf.trans hlsf.symm

/-- Settles O24: the bits sent are the same, and a whole command is a function of those; for one value they are in
reverse. -/
theorem bitOrderSymmetry : Obligations.BitOrderSymmetry := by
  intro v s p c
  have hbits := sentBit_lsf_reverseBits v
  have hchain : frameChain .msf v s = frameChain .lsf (reverseBits v) s := by
    simp only [frameChain, sentStages, sentStagesFirstLost, hbits]
  refine ⟨commandTrace_wrbMsf_eq_wrbLsf_reverseBits p c v, _, _, _, perform_writeByte p c .msf v,
    perform_writeByte p c .lsf (reverseBits v), perform_writeByte p c .lsf v, ?_, hchain, hchain, fun l k => ?_⟩
  · simp only [frameReturn, hbits]
  · simp only [frameReturn, get_frameChain_of_low l, sentBit_lsf_eq_msf_rev]

/-! ### `WRB.MSF` and `WRB.LSF` (R81, R82) -/

/-- Settles O17: the word, the refusal, the acceptance, the events and the state of return, each by its lemma for both
orders. -/
theorem wrbMsfSendsMostSignificantFirst : Obligations.WrbMsfSendsMostSignificantFirst := fun v s p =>
  ⟨⟨encode_writeByte_eq_append .msf v, decode_wrbFields_append .msf v⟩,
    fun c => exec_writeByte_unconfigured p c .msf v,
    fun c => ⟨exec_writeByte_idle p c .msf v, commandTrace_writeByte p c .msf v,
      frameReturn .msf v s, perform_writeByte p c .msf v, rfl, rfl, rfl, rfl, rfl,
      fun l => get_frameChain_of_low l .msf v, rfl⟩⟩

/-- Settles O18: as O17, with the symmetry of the two orders for a palindrome. -/
theorem wrbLsfSendsLeastSignificantFirst : Obligations.WrbLsfSendsLeastSignificantFirst := fun v s p =>
  ⟨⟨encode_writeByte_eq_append .lsf v, decode_wrbFields_append .lsf v⟩,
    fun c => exec_writeByte_unconfigured p c .lsf v,
    fun c => ⟨exec_writeByte_idle p c .lsf v, commandTrace_writeByte p c .lsf v,
      fun hv => by rw [commandTrace_wrbMsf_eq_wrbLsf_reverseBits p c, hv],
      frameReturn .lsf v s, perform_writeByte p c .lsf v, rfl, rfl, rfl, rfl, rfl,
      fun l => get_frameChain_of_low l .lsf v, rfl⟩⟩

/-! ### Counting over the steps of a frame (R88) -/

theorem countSteps_succ_of_next (p : State → Bool) {k : Nat} {s s' : State} (h : step s = .next s') :
    countSteps p (k + 1) s = (if p s then 1 else 0) + countSteps p k s' := by
  rw [countSteps, h]

theorem countSteps_add (p : State → Bool) (j k : Nat) {s s' : State} (h : runSteps j s = .next s') :
    countSteps p (j + k) s = countSteps p j s + countSteps p k s' := by
  induction j generalizing s with
  | zero => cases h; simp [countSteps]
  | succ j ih =>
    rw [runSteps_succ] at h
    rw [Nat.add_right_comm]
    cases e : step s with
    | next s₁ =>
      rw [e] at h
      rw [countSteps_succ_of_next p e, countSteps_succ_of_next p e, ih h, Nat.add_assoc]
    | fault r => rw [e] at h; cases h
    | refused r => rw [e] at h; cases h

/-- A count over several bits, bit by bit. -/
theorem countSteps_afterBits (p : State → Bool) {s : State} (h : s.phase = .extractBit)
    (c : s.cfg = ⟨true, true, true⟩) (hcnt : s.cnt = 0#4) (n : Nat) (hn : n ≤ 7) :
    countSteps p (5 * (n + 1)) s = countSteps p 5 s + ∑ k ∈ Finset.range n, countSteps p 5 (afterBits s k) := by
  induction n with
  | zero => rfl
  | succ n ih =>
    rw [Nat.mul_succ, countSteps_add p _ 5 (runSteps_afterBits h c hcnt n (by omega)), ih (by omega),
      Finset.sum_range_succ, Nat.add_assoc]

/-- A count over a frame: its first step, its first bit, the seven other bits, its last step. -/
theorem countSteps_captureFrame (p : State → Bool) {s : State} (c : s.cfg = ⟨true, true, true⟩) (o : Order) (v : Byte) :
    countSteps p 42 (captureFrame o v s) = (if p (captureFrame o v s) then 1 else 0) +
      (countSteps p 5 (bitsStart o v s) + ∑ k ∈ Finset.range 7, countSteps p 5 (afterBits (bitsStart o v s) k) +
        if p (afterBits (bitsStart o v s) 7) then 1 else 0) := by
  have hbits := countSteps_afterBits p (bitsStart_phase o v s) ((bitsStart_cfg o v s).trans c) rfl 7 le_rfl
  rw [countSteps_succ_of_next p (step_captureFrame o v s), countSteps_add p 40 1 (runSteps_bitsStart c o v),
    countSteps_succ_of_next p (step_afterBits_seven _), ← hbits]
  rfl

theorem stepEdge_shcp (s : State) :
    stepEdge .shcp s = (decide (s.phase = .pulseClockHigh) && risingEdge .shcp s) := by
  cases h : s.phase <;> cases b : s.bit <;> simp [stepEdge, stepEvents, h, b, driveEvent, waits]

theorem stepEdge_stcp (s : State) :
    stepEdge .stcp s = (decide (s.phase = .pulseLatch) && risingEdge .stcp s) := by
  cases h : s.phase <;> cases b : s.bit <;> simp [stepEdge, stepEvents, h, b, driveEvent, waits]

/-- The two steps before a `setHigh(SHCP)` change nothing of what decides its edge: ShiftClock and the draws. -/
theorem risingEdge_shcp_phaseStep {s : State} (h : s.phase = .extractBit ∨ s.phase = .driveData) :
    risingEdge .shcp (phaseStep s) = risingEdge .shcp s := by
  obtain h | h := h
  · rw [phaseStep_extractBit s h]; rfl
  · rw [phaseStep_driveData s h]; rfl

/-- A count over one bit, step by step: the five states by their phases, and the edge ShiftClock makes in the third. -/
theorem countSteps_bit {s : State} (h : s.phase = .extractBit) (c : s.cfg = ⟨true, true, true⟩) :
    ∃ s₁ s₂ s₃ s₄ : State, s₁.phase = .driveData ∧ s₂.phase = .pulseClockHigh ∧ s₃.phase = .pulseClockLow ∧
      s₄.phase = .shiftValue ∧ risingEdge .shcp s₂ = risingEdge .shcp s ∧
      ∀ p : State → Bool, countSteps p 5 s = (if p s then 1 else 0) + ((if p s₁ then 1 else 0) +
        ((if p s₂ then 1 else 0) + ((if p s₃ then 1 else 0) + (if p s₄ then 1 else 0)))) := by
  obtain ⟨s₁, s₂, s₃, s₄, e₀, e₁, e₂, e₃, e₄, p₁, -, p₂, p₃, p₄⟩ := bit_steps s h c
  have hs₁ : phaseStep s = s₁ := by simpa [step_busy s (by simp [h])] using e₀
  have hs₂ : phaseStep s₁ = s₂ := by simpa [step_busy s₁ (by simp [p₁])] using e₁
  refine ⟨s₁, s₂, s₃, s₄, p₁, p₂, p₃, p₄, ?_, fun p => ?_⟩
  · rw [← hs₂, risingEdge_shcp_phaseStep (.inr p₁), ← hs₁, risingEdge_shcp_phaseStep (.inl h)]
  · rw [countSteps_succ_of_next p e₀, countSteps_succ_of_next p e₁, countSteps_succ_of_next p e₂,
      countSteps_succ_of_next p e₃, countSteps_succ_of_next p e₄]
    rfl

theorem countSteps_stepEdge_shcp_bit {s : State} (h : s.phase = .extractBit) (c : s.cfg = ⟨true, true, true⟩) :
    countSteps (stepEdge .shcp) 5 s = if risingEdge .shcp s then 1 else 0 := by
  obtain ⟨s₁, s₂, s₃, s₄, p₁, p₂, p₃, p₄, hedge, hcount⟩ := countSteps_bit h c
  simp [hcount, stepEdge_shcp, h, p₁, p₂, p₃, p₄, hedge]

theorem countSteps_stepEdge_stcp_bit {s : State} (h : s.phase = .extractBit) (c : s.cfg = ⟨true, true, true⟩) :
    countSteps (stepEdge .stcp) 5 s = 0 := by
  obtain ⟨s₁, s₂, s₃, s₄, p₁, p₂, p₃, p₄, -, hcount⟩ := countSteps_bit h c
  simp [hcount, stepEdge_stcp, h, p₁, p₂, p₃, p₄]

theorem phaseStep_out_data (s : State) :
    (phaseStep s).out.data = if s.phase = .driveData then lvl s.bit else s.out.data := by
  cases h : s.phase <;> simp [phaseStep_eq, h]

/-- Data changes its level in the `DriveData` step alone (R98, R115). -/
theorem stepLevelChange_data_eq_false {s : State} (h : s.phase ≠ .driveData) : stepLevelChange .data s = false := by
  rw [stepLevelChange]
  cases e : step s with
  | next s' =>
    obtain ⟨-, rfl⟩ | ⟨-, -, rfl⟩ | ⟨w, ws, -, -, -, rfl⟩ | ⟨w, ws, -, -, -, -, rfl⟩ := step_next_cases e
    · simp [phaseStep_out_data, h]
    · simp
    · simp
    · simp [captureFrame, MachineState.captureFrame]
  | fault r => rfl
  | refused r => rfl

theorem countSteps_stepLevelChange_data_bit {s : State} (h : s.phase = .extractBit) (c : s.cfg = ⟨true, true, true⟩) :
    countSteps (stepLevelChange .data) 5 s ≤ 1 := by
  obtain ⟨s₁, s₂, s₃, s₄, p₁, p₂, p₃, p₄, -, hcount⟩ := countSteps_bit h c
  have hother {u : State} (hu : u.phase ≠ .driveData) := stepLevelChange_data_eq_false hu
  rw [hcount, hother (u := s) (by simp [h]), hother (u := s₂) (by simp [p₂]), hother (u := s₃) (by simp [p₃]),
    hother (u := s₄) (by simp [p₄])]
  cases stepLevelChange .data s₁ <;> simp

/-- ShiftClock is low after every bit (R84). -/
theorem risingEdge_shcp_afterBits {s : State} (c : s.cfg = ⟨true, true, true⟩) (n : Nat) :
    risingEdge .shcp (afterBits s n) = true :=
  (risingEdge_low .shcp _ (lineLevel_of_configured (afterBits s n) .shcp (by simp [c]))).1

/-- LatchClock stays low from the first step of a frame to the last (R170). -/
theorem risingEdge_stcp_afterBits_bitsStart {s : State} (c : s.cfg = ⟨true, true, true⟩) (o : Order) (v : Byte)
    (n : Nat) : risingEdge .stcp (afterBits (bitsStart o v s) n) = true :=
  (risingEdge_low .stcp _ (lineLevel_of_configured (afterBits (bitsStart o v s) n) .stcp (by simp [c]))).1

theorem risingEdge_shcp_bitsStart (o : Order) (v : Byte) (s : State) :
    risingEdge .shcp (bitsStart o v s) = risingEdge .shcp s := rfl

/-- Eight rising edges of ShiftClock, or seven if the first `setHigh` of the frame is none (R85, R88). -/
theorem risingEdges_shcp_captureFrame {s : State} (c : s.cfg = ⟨true, true, true⟩) (o : Order) (v : Byte) :
    risingEdges .shcp 42 (captureFrame o v s) = if risingEdge .shcp s then 8 else 7 := by
  have hfirst : countSteps (stepEdge .shcp) 5 (bitsStart o v s) = if risingEdge .shcp s then 1 else 0 := by
    rw [countSteps_stepEdge_shcp_bit (by simp) (by simp [c]), risingEdge_shcp_bitsStart]
  have hrest : ∀ k ∈ Finset.range 7, countSteps (stepEdge .shcp) 5 (afterBits (bitsStart o v s) k) = 1 := by
    intro k hk
    rw [countSteps_stepEdge_shcp_bit (afterBits_phase_of_lt _ (Finset.mem_range.1 hk)) (by simp [c]),
      risingEdge_shcp_afterBits (by simp [c]), if_pos rfl]
  rw [risingEdges, countSteps_captureFrame _ c, hfirst, Finset.sum_eq_card_nsmul hrest]
  cases risingEdge .shcp s <;> simp [stepEdge_shcp]

/-- LatchClock rises once, in the last step (R85, R88). -/
theorem risingEdges_stcp_captureFrame {s : State} (c : s.cfg = ⟨true, true, true⟩) (o : Order) (v : Byte) :
    risingEdges .stcp 42 (captureFrame o v s) = 1 := by
  have hfirst : countSteps (stepEdge .stcp) 5 (bitsStart o v s) = 0 :=
    countSteps_stepEdge_stcp_bit (by simp) (by simp [c])
  have hrest : ∀ k ∈ Finset.range 7, countSteps (stepEdge .stcp) 5 (afterBits (bitsStart o v s) k) = 0 := fun k hk =>
    countSteps_stepEdge_stcp_bit (afterBits_phase_of_lt _ (Finset.mem_range.1 hk)) (by simp [c])
  rw [risingEdges, countSteps_captureFrame _ c, hfirst, Finset.sum_eq_zero hrest]
  simp [stepEdge_stcp, risingEdge_stcp_afterBits_bitsStart c]

/-- Data changes its level at most once a bit (R88). -/
theorem levelChanges_data_captureFrame {s : State} (c : s.cfg = ⟨true, true, true⟩) (o : Order) (v : Byte) :
    levelChanges .data 42 (captureFrame o v s) ≤ 8 := by
  have hfirst : countSteps (stepLevelChange .data) 5 (bitsStart o v s) ≤ 1 :=
    countSteps_stepLevelChange_data_bit (by simp) (by simp [c])
  have hrest : ∑ k ∈ Finset.range 7, countSteps (stepLevelChange .data) 5 (afterBits (bitsStart o v s) k) ≤ 7 :=
    Finset.sum_le_card_nsmul (Finset.range 7) _ 1 fun k hk =>
      countSteps_stepLevelChange_data_bit (afterBits_phase_of_lt _ (Finset.mem_range.1 hk)) (by simp [c])
  rw [levelChanges, countSteps_captureFrame _ c, stepLevelChange_data_eq_false (by simp),
    stepLevelChange_data_eq_false (by simp), if_neg (by decide)]
  omega

/-! ### The events of a frame, counted (R88) -/

theorem count_filter_isWrite {op : LineOp} (h : op.isWrite = true) (events : List LineOp) :
    events.count op = (events.filter LineOp.isWrite).count op := (List.count_filter h).symm

/-- R88's counts, for the events of any list of bits: the write events are counted, the waits left out. -/
theorem count_frameEvents (bits : List Bool) :
    (frameEvents bits).count (.setHigh .shcp) = bits.length ∧ (frameEvents bits).count (.setLow .shcp) = bits.length ∧
    (frameEvents bits).count (.setLow .stcp) = 1 ∧ (frameEvents bits).count (.setHigh .stcp) = 1 ∧
    (frameEvents bits).count (.setHigh .data) + (frameEvents bits).count (.setLow .data) = bits.length := by
  have hwrites {op : LineOp} (h : op.isWrite = true) := count_filter_isWrite h (frameEvents bits)
  rw [hwrites rfl, hwrites rfl, hwrites rfl, hwrites rfl, hwrites rfl, hwrites rfl, filter_isWrite_frameEvents]
  clear hwrites
  induction bits with
  | nil => decide
  | cons b bits ih =>
    cases b <;> simp at ih ⊢ <;> omega

/-- Settles O25: the events are those of `frameEvents`; edges and level changes are counted step by step. -/
theorem countsOfOneFrame : Obligations.CountsOfOneFrame := by
  intro o v s p c
  obtain ⟨hC1, hC0, hS0, hS1, hD⟩ := count_frameEvents (sentBits o v)
  rw [length_sentBits] at hC1 hC0 hD
  rw [commandTrace_writeByte p c]
  have hedges := risingEdges_shcp_captureFrame c o v
  refine ⟨filter_isWrite_frameEvents _, hC1, hC0, hS0, hS1, hD, captureFrame o v s, exec_writeByte_idle p c o v, ?_,
    fun l => ?_, risingEdges_stcp_captureFrame c o v, levelChanges_data_captureFrame c o v⟩
  · rw [hedges]
    split
    · exact .inr rfl
    · exact .inl rfl
  · have hlow : s.lineLevel .shcp = .low := (lineLevel_of_configured s .shcp (by simp [c])).trans l
    rw [hedges, (risingEdge_low .shcp s hlow).1, if_pos rfl]

/-! ### The device during and after a frame (R85) -/

/-- The steps that are left until the engine is `Idle` (R104). -/
def stepsLeft (s : State) : Nat :=
  match s.phase with
  | .idle => 0
  | .configure => 1
  | .latchLow => 42
  | .extractBit => 41 - 5 * s.cnt.toNat
  | .driveData => 40 - 5 * s.cnt.toNat
  | .pulseClockHigh => 39 - 5 * s.cnt.toNat
  | .pulseClockLow => 38 - 5 * s.cnt.toNat
  | .shiftValue => 37 - 5 * s.cnt.toNat
  | .pulseLatch => 1

theorem stepsLeft_phaseStep {s : State} (h : SequencerInv s) (p : s.phase ≠ .idle) :
    stepsLeft s = stepsLeft (phaseStep s) + 1 := by
  have hphase := phaseStep_phase s
  have hcnt := phaseStep_cnt s
  have hbit := h.count_bit
  cases e : s.phase <;> rw [e] at hphase hcnt hbit
  case idle => exact absurd e p
  case configure | pulseLatch => simp [stepsLeft, e, hphase, successor]
  case latchLow => simp [stepsLeft, e, hphase, hcnt, successor, h.count_start e]
  case extractBit | driveData | pulseClockHigh | pulseClockLow =>
    have hle : s.cnt.toNat ≤ 7 := hbit rfl
    simp only [stepsLeft, e, hphase, hcnt, successor, reduceCtorEq, if_false]
    omega
  case shiftValue =>
    have hle : s.cnt.toNat ≤ 7 := hbit rfl
    have hsucc := toNat_count_succ hle
    by_cases h8 : s.cnt + 1#4 = 8#4
    · have h7 : s.cnt.toNat = 7 := by
        rw [h8] at hsucc
        simpa using hsucc.symm
      simp [stepsLeft, e, hphase, successor, h8, h7]
    · have h7 : s.cnt.toNat ≠ 7 := by bv_omega
      simp only [stepsLeft, e, hphase, hcnt, successor, if_neg h8, if_true, hsucc]
      omega

theorem ne_idle_of_lt_stepsLeft {s : State} {j : Nat} (hj : j < stepsLeft s) : s.phase ≠ .idle := by
  intro e
  rw [stepsLeft, e] at hj
  exact Nat.not_lt_zero j hj

theorem phaseStep_q {s : State} (h : s.phase ≠ .pulseLatch) : (phaseStep s).q = s.q := by
  cases e : s.phase <;> simp [phaseStep_eq, e, setHigh_shcp]
  exact absurd e h

/-- Before the last step of a command the engine is busy and `Q` holds (R126, R104). -/
theorem runSteps_of_lt_stepsLeft (j : Nat) {s : State} (h : SequencerInv s) (hj : j < stepsLeft s) :
    ∃ u, runSteps j s = .next u ∧ u.phase ≠ .idle ∧ u.q = s.q := by
  have p := ne_idle_of_lt_stepsLeft hj
  induction j generalizing s with
  | zero => exact ⟨s, rfl, p, rfl⟩
  | succ j ih =>
    have hleft := stepsLeft_phaseStep h p
    have hj' : j < stepsLeft (phaseStep s) := by omega
    have hlatch : s.phase ≠ .pulseLatch := fun e => by simp [stepsLeft, e] at hj
    have hinv : SequencerInv (phaseStep s) := stepKeepsTheSequencerLaws s _ h (step_busy s p)
    obtain ⟨u, hu, hphase, hq⟩ := ih hinv hj' (ne_idle_of_lt_stepsLeft hj')
    exact ⟨u, (runSteps_succ_of_next (step_busy s p)).trans hu, hphase, hq.trans (phaseStep_q hlatch)⟩

theorem sequencerInv_captureFrame {s : State} (c : s.cfg = ⟨true, true, true⟩) (o : Order) (v : Byte) :
    SequencerInv (captureFrame o v s) := by
  have hall : allOutputs (captureFrame o v s).cfg = true := by simp [c, allOutputs]
  exact (sequencerInv_iff _).2 ⟨hall, rfl⟩

/-- Settles O21: the edge of the first `setHigh(SHCP)` decides between the two outcomes, and the level at acceptance
decides that edge. -/
theorem deviceAfterAFrame : Obligations.DeviceAfterAFrame := by
  intro o v s p c
  have hlevel : s.lineLevel .shcp = s.out.shcp := lineLevel_of_configured s .shcp (by simp [c])
  have hdraws : (frameReturn o v s).draws = drawsAfter .shcp s := (drawsAfter_shcp c).symm
  have hedge : risingEdge .shcp s = true →
      (frameReturn o v s).t.get 0 = tri (sentBit o v 0) ∧ risingEdges .shcp 42 (captureFrame o v s) = 8 := fun e => by
    rw [risingEdges_shcp_captureFrame c, frameReturn, frameChain_eq c, if_pos e, if_pos e]
    exact ⟨rfl, rfl⟩
  have hno : risingEdge .shcp s = false →
      (frameReturn o v s).t.get 0 = s.t.get 7 ∧ risingEdges .shcp 42 (captureFrame o v s) = 7 := fun e => by
    rw [risingEdges_shcp_captureFrame c, frameReturn, frameChain_eq c, e]
    exact ⟨rfl, rfl⟩
  refine ⟨captureFrame o v s, frameReturn o v s, exec_writeByte_idle p c o v, perform_writeByte p c o v,
    fun j hj => ?_, rfl, fun k hk => get_frameChain c o v hk, fun l => ?_, fun l => ?_, fun l => ?_,
    risingEdges_stcp_captureFrame c o v⟩
  · obtain ⟨u, hu, -, hq⟩ :=
      runSteps_of_lt_stepsLeft j (sequencerInv_captureFrame c o v) (Nat.lt_succ_of_le hj)
    exact ⟨u, hu, hq⟩
  · obtain ⟨he, hd⟩ := risingEdge_low .shcp s (hlevel.trans l)
    obtain ⟨h0, hn⟩ := hedge he
    exact ⟨h0, hn, hdraws.trans hd⟩
  · obtain ⟨he, hd⟩ := risingEdge_high .shcp s (hlevel.trans l)
    obtain ⟨h0, hn⟩ := hno he
    exact ⟨h0, hn, hdraws.trans hd⟩
  · obtain ⟨he, hd⟩ := risingEdge_undetermined .shcp s (hlevel.trans l)
    exact ⟨hdraws.trans hd, fun a => hedge (he.trans a), fun a => hno (he.trans a)⟩

end Sys2Proof.Machine
end

section
/-! The statements of 41_sequencer.md: the acceptance step and the step of each phase, the steps of a command, and the
writes of a step. -/

namespace Sys2Proof.Machine

/-! ### The steps of a command (R104) -/

/-- Settles O36: `INIT` returns by the one `Configure` step; the captured frame has 42 steps left, is busy before the last of
them (`runSteps_of_lt_stepsLeft`) and returns with it. -/
theorem stepsOfACommand : Obligations.StepsOfACommand := by
  refine fun s p => ⟨⟨_, _, execInit_idle s p, by simp, step_busy _ (by simp), by simp [phaseStep_phase, successor]⟩,
    fun o v c => ⟨captureFrame o v s, exec_writeByte_idle p c o v, fun j hj => ?_, frameReturn o v s,
      runSteps_captureFrame c o v, rfl⟩⟩
  obtain ⟨u, hu, hbusy, -⟩ := runSteps_of_lt_stepsLeft j (sequencerInv_captureFrame c o v) hj
  exact ⟨u, hu, hbusy⟩

/-! ### The writes of a step (R90, R95) -/

/-- The write events of a step: one in each phase that drives a line, and none in the others. -/
theorem filter_isWrite_stepEvents (s : State) : (stepEvents s).filter LineOp.isWrite =
    match s.phase with
    | .latchLow => [.setLow .stcp]
    | .driveData => [driveEvent .data s.bit]
    | .pulseClockHigh => [.setHigh .shcp]
    | .pulseClockLow => [.setLow .shcp]
    | .pulseLatch => [.setHigh .stcp]
    | .idle | .configure | .extractBit | .shiftValue => [] := by
  cases h : s.phase with
  | driveData => cases b : s.bit <;> simp [stepEvents, h, b, driveEvent, LineOp.isWrite]
  | _ => simp [stepEvents, h, waits, List.filter_cons, LineOp.isWrite]

/-- Only the `Configure` step configures a line (R95). -/
theorem phase_of_configureAsOutput_mem_stepEvents {s : State} {n : Line} (h : .configureAsOutput n ∈ stepEvents s) :
    s.phase = .configure := by
  cases p : s.phase with
  | configure => rfl
  | driveData => cases b : s.bit <;> simp [stepEvents, p, b, driveEvent] at h
  | _ => simp [stepEvents, p, waits] at h

/-- A line operation that does not write line `n` leaves its level alone (R49, R113). -/
theorem runLineOp_out_get {op : LineOp} {n : Line} (hhigh : op ≠ .setHigh n) (hlow : op ≠ .setLow n) (s : State) :
    (runLineOp op s).out.get n = s.out.get n := by
  rw [runLineOp_out]
  cases op with
  | setHigh m => exact Lines.get_set_other _ _ _ _ fun e => hhigh (by rw [e])
  | setLow m => exact Lines.get_set_other _ _ _ _ fun e => hlow (by rw [e])
  | configureAsOutput m => rfl
  | busyWaitShort => rfl

/-- No level changes in a sequence of line operations without a write of that line. -/
theorem runLineOps_out_get {ops : List LineOp} {n : Line} (hhigh : .setHigh n ∉ ops) (hlow : .setLow n ∉ ops)
    (s : State) : (runLineOps ops s).out.get n = s.out.get n := by
  induction ops generalizing s with
  | nil => rfl
  | cons op ops ih =>
    obtain ⟨hhigh₁, hhigh₂⟩ := not_or.1 (List.mem_cons.not.1 hhigh)
    obtain ⟨hlow₁, hlow₂⟩ := not_or.1 (List.mem_cons.not.1 hlow)
    rw [runLineOps_cons, ih hhigh₂ hlow₂, runLineOp_out_get (Ne.symm hhigh₁) (Ne.symm hlow₁)]

/-- A step writes `OUT` by the line operations it records: at `Idle` there are none, and a busy step is its operations. -/
theorem step_out {s s' : State} (h : step s = .next s') : s'.out = (runLineOps (stepEvents s) s).out := by
  obtain ⟨-, rfl⟩ | ⟨p, -, rfl⟩ | ⟨w, ws, p, -, -, rfl⟩ | ⟨w, ws, p, -, -, -, rfl⟩ := step_next_cases h
  · obtain ⟨-, hout, -⟩ := phaseStep_lines s
    exact hout
  all_goals
    rw [stepEvents, p]
    rfl

/-- Settles O39: the events are counted phase by phase; the levels follow the recorded operations (`step_out`), and an
operation that does not write a line leaves its level alone. -/
theorem oneLineWritePerStep : Obligations.OneLineWritePerStep := by
  refine fun s => ⟨?_, fun p => ⟨?_, ?_⟩, fun n => phase_of_configureAsOutput_mem_stepEvents, fun s' n hs hne => ?_⟩
  · rw [filter_isWrite_stepEvents]
    split <;> simp
  · rw [filter_isWrite_stepEvents, p]
  · rw [stepEvents, p]
    rfl
  · by_contra hno
    obtain ⟨hhigh, hlow⟩ := not_or.1 hno
    exact hne (by rw [step_out hs, runLineOps_out_get hhigh hlow])

/-! ### Acceptance at `Idle` (R92 to R94) -/

theorem stepEvents_idle {s : State} (h : s.phase = .idle) : stepEvents s = [] := by
  rw [stepEvents, h]

/-- Settles O14: the three cases of a step. -/
theorem stepRunsTheOfferedCommand : Obligations.StepRunsTheOfferedCommand := fun s =>
  ⟨fun w ws _ p e d => d ▸ step_offered s w ws p e, step_nothing_offered s, step_busy s⟩

/-- Settles O26: `step_accepts_init`. -/
theorem acceptingInit : Obligations.AcceptingInit := fun _ _ _ p e b => ⟨stepEvents_idle p, step_accepts_init p e b⟩

/-- Settles O27: the capture takes the fields of the word; the precondition is `CFG = (1,1,1)`. -/
theorem acceptingWrb : Obligations.AcceptingWrb := by
  refine fun s w ws p e b => ⟨stepEvents_idle p, fun c => step_accepts_wrb p e b (by rw [c]; rfl), fun c => ?_⟩
  exact step_refuses_wrb p e b (Bool.eq_false_iff.2 fun hall => c (eq_of_allOutputs hall))

/-! ### The phases (R95 to R102) -/

/-- The step from a known phase other than `Idle`. -/
theorem step_of_phase {s : State} {p : Phase} (h : s.phase = p) (hp : p ≠ .idle) : step s = .next (phaseStep s) :=
  step_busy s (h ▸ hp)

/-- Settles O28: the three configurations of the one step leave `CFG = (1,1,1)` whatever it was. -/
theorem configurePhase : Obligations.ConfigurePhase := by
  intro s h
  rw [stepEvents, h, step_of_phase h (by decide), phaseStep_configure s h]
  exact ⟨rfl, rfl⟩

/-- Settles O29: a `setLow` is never a rising edge, so the device is left alone whatever the level was. -/
theorem latchLowPhase : Obligations.LatchLowPhase := by
  intro s h
  rw [stepEvents, h, step_of_phase h (by decide), phaseStep_latchLow s h]
  exact ⟨rfl, rfl⟩

/-- Extraction by the order of the frame (R86, R97). -/
theorem extractedBit_eq (o : Order) (v : Byte) : extractedBit o v =
    match o with
    | .msf => v.getLsbD 7
    | .lsf => v.getLsbD 0 := by
  cases o <;> rfl

/-- Settles O30: `BIT` by the order of the frame. -/
theorem extractBitPhase : Obligations.ExtractBitPhase := by
  intro s h
  rw [stepEvents, h, step_of_phase h (by decide), phaseStep_extractBit s h, extractedBit_eq]
  exact ⟨rfl, rfl⟩

/-- Settles O31: the write of Data is unconditional. -/
theorem driveDataPhase : Obligations.DriveDataPhase := by
  intro s h
  rw [stepEvents, h, step_of_phase h (by decide), phaseStep_driveData s h]
  exact ⟨rfl, rfl⟩

/-- Settles O32: the chain is shifted if the write is a rising edge, which the level before it decides. -/
theorem pulseClockHighPhase : Obligations.PulseClockHighPhase := by
  intro s h
  rw [stepEvents, h, step_of_phase h (by decide), phaseStep_pulseClockHigh s h, setHigh_shcp]
  refine ⟨rfl, _, rfl, fun l => ?_, fun l => ?_, fun l => ?_⟩
  · rw [(risingEdge_low .shcp s l).1, if_pos rfl]
    exact ⟨Stages.get_shiftIn s.t _, Stages.get_shiftIn_last s.t _⟩
  · rw [(risingEdge_high .shcp s l).1]
    rfl
  · rw [(risingEdge_undetermined .shcp s l).1]

/-- Settles O33: the waits change no state, and the `setLow` moves no device register. -/
theorem pulseClockLowPhase : Obligations.PulseClockLowPhase := by
  intro s h
  rw [stepEvents, h, step_of_phase h (by decide), phaseStep_pulseClockLow s h]
  exact ⟨rfl, rfl⟩

/-- The shift by the order of the frame (R86, R101). -/
theorem shiftedValue_eq (o : Order) (v : Byte) : shiftedValue o v =
    match o with
    | .msf => v <<< 1
    | .lsf => v >>> 1 := by
  cases o
  · exact shiftedValue_msf v
  · exact shiftedValue_lsf v

/-- Settles O34: the shift of `VAL` is a shift by one place, to the left under `MSF` and to the right under `LSF`. -/
theorem shiftValuePhase : Obligations.ShiftValuePhase := by
  intro s h
  rw [stepEvents, h, step_of_phase h (by decide), phaseStep_shiftValue s h, shiftedValue_eq]
  exact ⟨rfl, rfl⟩

/-- The `PulseLatch` step from a low LatchClock: one latch and no draw (R102, R124). -/
theorem phaseStep_pulseLatch_of_low {s : State} (h : s.phase = .pulseLatch) (l : s.lineLevel .stcp = .low) :
    phaseStep s = { s with out := { s.out with stcp := .high }, phase := .idle, q := s.t } := by
  obtain ⟨hedge, hdraws⟩ := risingEdge_low .stcp s l
  rw [phaseStep_pulseLatch s h, setHigh_stcp, hedge, hdraws]
  rfl

/-- Settles O35: the laws give a low LatchClock (R104), and from any level the edge rule decides. -/
theorem pulseLatchPhase : Obligations.PulseLatchPhase := by
  intro s h
  rw [stepEvents, h, step_of_phase h (by decide)]
  refine ⟨rfl, fun hinv => ?_, ?_⟩
  · have hlevel : s.lineLevel .stcp = s.out.stcp := lineLevel_of_allOutputs s .stcp (hinv.configured (by rw [h]; rfl))
    rw [phaseStep_pulseLatch_of_low h (hlevel.trans (hinv.latch_low (.inr h)))]
  · rw [phaseStep_pulseLatch s h, setHigh_stcp]
    refine ⟨_, rfl, fun l => ?_, fun l => ?_, fun l => ?_⟩
    · rw [(risingEdge_low .stcp s l).1, if_pos rfl]
    · rw [(risingEdge_high .stcp s l).1]
      rfl
    · rw [(risingEdge_undetermined .stcp s l).1]

end Sys2Proof.Machine
end

section
/-! The statements of 42_line_operations.md: the effect of each line operation, each with its frame. -/

namespace Sys2Proof.Machine

/-- Writing the value a line has already changes nothing. -/
theorem Lines.set_of_get_eq {α : Type} {l : Lines α} {n : Line} {a : α} (h : l.get n = a) : l.set n a = l := by
  subst h
  cases n <;> rfl

theorem runLineOp_configureAsOutput (n : Line) (s : State) :
    runLineOp (.configureAsOutput n) s = { s with cfg := s.cfg.set n true } := rfl

theorem runLineOp_setLow (n : Line) (s : State) : runLineOp (.setLow n) s = { s with out := s.out.set n .low } := rfl

/-- Settles O40: the operation writes one bit of `CFG`; the level the device sees is `U` without that bit and `OUT[n]` with
it (R20). -/
theorem configureAsOutputEffect : Obligations.ConfigureAsOutputEffect := by
  intro n s
  rw [runLineOp_configureAsOutput]
  refine ⟨rfl, ?_, lineLevel_of_unconfigured s n, fun hset => ?_, fun m hm => ?_⟩
  · exact lineLevel_of_configured { s with cfg := s.cfg.set n true } n (Lines.get_set_same s.cfg n true)
  · rw [Lines.set_of_get_eq hset]
  · exact Lines.get_set_other s.cfg n m true hm

/-- Settles O41: on a clock line the level before the write decides the edge and the draw (R122); the edge is a shift of the
chain on ShiftClock (R123) and the copy of the chain on LatchClock (R124). -/
theorem setHighEffect : Obligations.SetHighEffect := by
  intro s
  simp only [runLineOp]
  refine ⟨rfl, fun l => ?_, fun l => ?_, fun l => ⟨Config.edgeDraw s.draws, ?_⟩,
    fun l => ?_, fun l => ?_, fun l => ⟨Config.edgeDraw s.draws, ?_⟩⟩
  · obtain ⟨hedge, hdraws⟩ := risingEdge_low .shcp s l
    rw [setHigh_shcp, hedge, hdraws, if_pos rfl]
  · obtain ⟨hedge, hdraws⟩ := risingEdge_high .shcp s l
    rw [setHigh_shcp, hedge, hdraws]
    rfl
  · obtain ⟨hedge, hdraws⟩ := risingEdge_undetermined .shcp s l
    rw [setHigh_shcp, hedge, hdraws]
  · obtain ⟨hedge, hdraws⟩ := risingEdge_low .stcp s l
    rw [setHigh_stcp, hedge, hdraws, if_pos rfl]
  · obtain ⟨hedge, hdraws⟩ := risingEdge_high .stcp s l
    rw [setHigh_stcp, hedge, hdraws]
    rfl
  · obtain ⟨hedge, hdraws⟩ := risingEdge_undetermined .stcp s l
    rw [setHigh_stcp, hedge, hdraws]

/-- Settles O42: the operation writes one level of `OUT` and no register of the device; the wait writes nothing (R113). -/
theorem setLowAndWaitEffect : Obligations.SetLowAndWaitEffect := by
  refine ⟨fun n s => ?_, fun _ => rfl⟩
  rw [runLineOp_setLow]
  refine ⟨rfl, fun m hm => ?_, fun hlow => ?_⟩
  · exact Lines.get_set_other s.out n m .low hm
  · rw [Lines.set_of_get_eq hlow]

end Sys2Proof.Machine
end

section
/-! The statements of 43_attached_register.md: what a clock edge makes of the device, what a step makes of it, and the
chain as a window on the samples it has taken. -/

namespace Sys2Proof.Machine

/-! ### The two edges (R122 to R124) -/

/-- Settles O43: the level before the write decides the edge, and an edge is one shift of the chain. -/
theorem shiftClockEdgeShiftsTheChain : Obligations.ShiftClockEdgeShiftsTheChain := by
  refine fun s => ⟨fun l => (risingEdge_low .shcp s l).1, fun l => (risingEdge_high .shcp s l).1, fun e => ?_⟩
  have ht : (setHigh .shcp s).t = s.t.shiftIn (bit3 (s.lineLevel .data)) := by rw [setHigh_shcp, if_pos e]
  rw [ht, Stages.get_shiftIn_last]
  exact ⟨Stages.get_shiftIn s.t _, congrArg bit3, congrArg bit3, congrArg bit3, rfl⟩

/-- Settles O44: the level before the write decides the edge, and an edge makes `Q` the chain. -/
theorem latchClockEdgeCopiesTheChain : Obligations.LatchClockEdgeCopiesTheChain := by
  refine fun s => ⟨fun l => (risingEdge_low .stcp s l).1, fun l => (risingEdge_high .stcp s l).1, fun e => ?_⟩
  have hq : (setHigh .stcp s).q = s.t := by rw [setHigh_stcp_q, if_pos e]
  exact ⟨fun k => by rw [hq], rfl⟩

/-! ### The device over a step (R125, R126) -/

theorem stepEdge_idle {s : State} (h : s.phase = .idle) (n : Line) : stepEdge n s = false := by
  simp [stepEdge, stepEvents_idle h]

theorem phaseStep_t_eq (s : State) : (phaseStep s).t = if stepEdge .shcp s then s.shiftedChain else s.t := by
  rw [stepEdge_shcp]
  cases h : s.phase <;> simp [phaseStep_eq, h, setHigh_shcp_t, setHigh_stcp]

theorem phaseStep_q_eq (s : State) : (phaseStep s).q = if stepEdge .stcp s then s.t else s.q := by
  rw [stepEdge_stcp]
  cases h : s.phase <;> simp [phaseStep_eq, h, setHigh_stcp_q, setHigh_shcp]

/-- A step writes the chain by a rising edge on ShiftClock and by nothing else (R123, R125). -/
theorem step_t {s s' : State} (h : step s = .next s') :
    s'.t = if stepEdge .shcp s then s.shiftedChain else s.t := by
  obtain ⟨-, rfl⟩ | ⟨p, -, rfl⟩ | ⟨w, ws, p, -, -, rfl⟩ | ⟨w, ws, p, -, -, -, rfl⟩ := step_next_cases h
  · exact phaseStep_t_eq s
  all_goals
    rw [stepEdge_idle p]
    rfl

/-- A step writes the outputs by a rising edge on LatchClock and by nothing else (R124, R125). -/
theorem step_q {s s' : State} (h : step s = .next s') : s'.q = if stepEdge .stcp s then s.t else s.q := by
  obtain ⟨-, rfl⟩ | ⟨p, -, rfl⟩ | ⟨w, ws, p, -, -, rfl⟩ | ⟨w, ws, p, -, -, -, rfl⟩ := step_next_cases h
  · exact phaseStep_q_eq s
  all_goals
    rw [stepEdge_idle p]
    rfl

/-- Settles O45: of the line operations only the `setHigh` of a clock line reaches the device, and from `H` it makes no edge;
a step reaches it by its edges (`step_t`, `step_q`). -/
theorem nothingElseChangesTheDevice : Obligations.NothingElseChangesTheDevice := by
  refine ⟨fun op s hhigh => ?_, fun op s hhigh => ?_, fun s s' hs e => ?_, fun s s' hs e => ?_⟩
  · by_cases hop : op = .setHigh .shcp
    · subst hop
      rw [runLineOp, setHigh_shcp_t, (risingEdge_high .shcp s (hhigh rfl)).1]
      rfl
    · exact runLineOp_t op s hop
  · by_cases hop : op = .setHigh .stcp
    · subst hop
      rw [runLineOp, setHigh_stcp_q, (risingEdge_high .stcp s (hhigh rfl)).1]
      rfl
    · exact runLineOp_q op s hop
  · rw [step_t hs, e]
    rfl
  · rw [step_q hs, e]
    rfl

/-- Settles O46: only `PulseLatch` can make an edge on LatchClock, and under the laws its step is the latch of the whole
chain (R102, R104). -/
theorem outputsHoldUntilTheLatch : Obligations.OutputsHoldUntilTheLatch := by
  refine fun s s' hinv hs => ⟨fun p => ?_, fun p => ?_⟩
  · have hedge : stepEdge .stcp s = false := by simp [stepEdge_stcp, p]
    rw [step_q hs, hedge]
    rfl
  · obtain ⟨hevents, hstep, -⟩ := pulseLatchPhase s p
    rw [hstep hinv] at hs
    cases hs
    exact ⟨by simp [hevents], rfl⟩

/-! ### The chain as a window on its samples (R128) -/

theorem Stages.ofFn_get_append (r : Stages) (b : TriBit) :
    List.ofFn r.get ++ [b] = r.get 0 :: List.ofFn (r.shiftIn b).get := rfl

/-- The chain is the last eight entries of its old stages followed by the samples shifted in. -/
theorem Stages.get_foldl_shiftIn (samples : List TriBit) (r : Stages) (k : Fin 8) :
    some ((samples.foldl Stages.shiftIn r).get k) = (List.ofFn r.get ++ samples)[samples.length + k]? := by
  induction samples generalizing r with
  | nil => simp [-List.ofFn_succ]
  | cons b bs ih =>
    have hwindow : List.ofFn r.get ++ b :: bs = r.get 0 :: (List.ofFn (r.shiftIn b).get ++ bs) := by
      rw [List.append_cons, Stages.ofFn_get_append, List.cons_append]
    rw [hwindow, List.length_cons, Nat.add_right_comm, List.getElem?_cons_succ]
    exact ih (r.shiftIn b)

/-- Behind the eight old stages come the samples. -/
theorem Stages.getElem?_ofFn_get_append (r : Stages) (samples : List TriBit) (n : Nat) :
    (List.ofFn r.get ++ samples)[8 + n]? = samples[n]? := by
  rw [List.getElem?_append_right (by simp), List.length_ofFn, Nat.add_sub_cancel_left]

/-- Settles O47: after eight samples the window is the samples; after seven it begins one place earlier, with the old
`T[7]`. -/
theorem eightEdgesReplaceTheChain : Obligations.EightEdgesReplaceTheChain := by
  refine fun r b => ⟨fun k => Option.some.inj ?_, fun k => Option.some.inj ?_⟩
  · rw [Stages.get_foldl_shiftIn, List.length_map, List.length_finRange, Stages.getElem?_ofFn_get_append]
    simp
  · rw [Stages.get_foldl_shiftIn, List.length_tail, List.length_map, List.length_finRange]
    cases k using Fin.cases with
    | zero => simp
    | succ j =>
      have hindex : 8 - 1 + (j.succ : Nat) = 8 + j := by
        rw [Fin.val_succ]
        omega
      rw [hindex, Stages.getElem?_ofFn_get_append, if_neg (Fin.succ_ne_zero j)]
      simp [Fin.succ]

end Sys2Proof.Machine
end

section
/-! The statements of 60_exceptions.md: the refusals, the draws of a run, the return of every command, and the trace as
what determines the lines and the device. -/

namespace Sys2Proof.Machine

/-! ### The trace determines the device (R152) -/

theorem sameLinesAndDevice.refl (s : State) : sameLinesAndDevice s s := ⟨rfl, rfl, rfl, rfl, rfl⟩

theorem sameLinesAndDevice.trans {s₁ s₂ s₃ : State} (h : sameLinesAndDevice s₁ s₂) (k : sameLinesAndDevice s₂ s₃) :
    sameLinesAndDevice s₁ s₃ := by
  obtain ⟨hcfg, hout, ht, hq, hdraws⟩ := h
  obtain ⟨kcfg, kout, kt, kq, kdraws⟩ := k
  exact ⟨hcfg.trans kcfg, hout.trans kout, ht.trans kt, hq.trans kq, hdraws.trans kdraws⟩

/-- A line operation reads the lines, the device and the count of draws, and no register of the sequencer. -/
theorem sameLinesAndDevice_runLineOp {s₁ s₂ : State} (h : sameLinesAndDevice s₁ s₂) (op : LineOp) :
    sameLinesAndDevice (runLineOp op s₁) (runLineOp op s₂) := by
  obtain ⟨⟨p₁, c₁, v₁, o₁, b₁, cfg, out, t, q⟩, ws₁, d⟩ := s₁
  obtain ⟨⟨p₂, c₂, v₂, o₂, b₂, cfg, out, t, q⟩, ws₂, d⟩ := s₂
  obtain ⟨rfl, rfl, rfl, rfl, rfl⟩ := h
  cases op with
  | setHigh n => cases n <;> exact ⟨rfl, rfl, rfl, rfl, rfl⟩
  | configureAsOutput n => exact ⟨rfl, rfl, rfl, rfl, rfl⟩
  | setLow n => exact ⟨rfl, rfl, rfl, rfl, rfl⟩
  | busyWaitShort => exact ⟨rfl, rfl, rfl, rfl, rfl⟩

theorem sameLinesAndDevice_runLineOps {s₁ s₂ : State} (h : sameLinesAndDevice s₁ s₂) (ops : List LineOp) :
    sameLinesAndDevice (runLineOps ops s₁) (runLineOps ops s₂) := by
  induction ops generalizing s₁ s₂ with
  | nil => exact h
  | cons op ops ih => exact ih (sameLinesAndDevice_runLineOp h op)

/-- A step writes the lines and the device by the line operations it records: at `Idle` there are none. -/
theorem sameLinesAndDevice_of_step {s s' : State} (h : step s = .next s') :
    sameLinesAndDevice (runLineOps (stepEvents s) s) s' := by
  obtain ⟨-, rfl⟩ | ⟨p, -, rfl⟩ | ⟨w, ws, p, -, -, rfl⟩ | ⟨w, ws, p, -, -, -, rfl⟩ := step_next_cases h
  · obtain ⟨hcfg, hout, ht, hq, hdraws⟩ := phaseStep_lines s
    exact ⟨hcfg.symm, hout.symm, ht.symm, hq.symm, hdraws.symm⟩
  all_goals
    rw [stepEvents_idle p, runLineOps_nil]
    exact ⟨rfl, rfl, rfl, rfl, rfl⟩

/-- Settles O52, by induction on the number of steps: the events of the first step replayed give the lines and the device
of its successor, and the rest of the trace replayed does not tell the two apart. -/
theorem traceDeterminesTheDevice : Obligations.TraceDeterminesTheDevice := by
  intro k s s' h
  induction k generalizing s with
  | zero =>
    cases h
    exact sameLinesAndDevice.refl _
  | succ k ih =>
    rw [runSteps_succ] at h
    cases e : step s with
    | next s₁ =>
      rw [e] at h
      rw [trace_succ_of_next e, runLineOps_append]
      exact (sameLinesAndDevice_runLineOps (sameLinesAndDevice_of_step e) (trace k s₁)).trans (ih s₁ h)
    | fault r => cases r
    | refused r => rw [e] at h; cases h

/-! ### Faults and refusals (R140, R142) -/

theorem allOutputs_eq_false_iff (c : Lines Bool) : allOutputs c = false ↔ c ≠ ⟨true, true, true⟩ := by
  rw [← Bool.not_eq_true]
  exact not_congr ⟨eq_of_allOutputs, fun h => by rw [h]; rfl⟩

/-- Of the five situations of a step (`step_situations`) one is refused. -/
theorem step_refused_iff (s : State) (r : Refusal) : step s = .refused r ↔
    r = .wrbBeforeInit ∧ s.phase = .idle ∧ s.cfg ≠ ⟨true, true, true⟩ ∧
      ∃ w ws, s.offers = w :: ws ∧ w.getLsbD 9 = true := by
  constructor
  · intro h
    obtain p | ⟨p, e⟩ | ⟨w, ws, p, e, b⟩ | ⟨w, ws, p, e, b, c⟩ | ⟨w, ws, p, e, b, c⟩ := step_situations s
    · cases (step_busy s p).symm.trans h
    · cases (step_nothing_offered s p e).symm.trans h
    · cases (step_accepts_init p e b).symm.trans h
    · cases (step_accepts_wrb p e b c).symm.trans h
    · cases (step_refuses_wrb p e b c).symm.trans h
      exact ⟨rfl, p, (allOutputs_eq_false_iff s.cfg).1 c, w, ws, e, b⟩
  · rintro ⟨rfl, p, c, w, ws, e, b⟩
    exact step_refuses_wrb p e b ((allOutputs_eq_false_iff s.cfg).2 c)

theorem hostMove_refused_iff (m : HostMove) (s : State) (r : Refusal) : hostMove m s = .refused r ↔
    (m = .foreignWrite ∧ r = .secondWriter) ∨
      ((∃ c, m = .assertReset c) ∧ s.phase ≠ .idle ∧ r = .resetInFrame) := by
  cases m with
  | offer w => simp [hostMove]
  | assertReset c => by_cases p : s.phase = .idle <;> simp [hostMove, p, eq_comm]
  | foreignWrite => simp [hostMove, eq_comm]

/-- Settles O49: no fault exists; the refusals of a step and of a move, each by its equivalence. -/
theorem theOnlyRefusals : Obligations.TheOnlyRefusals :=
  ⟨fun _ f => (nomatch f), step_refused_iff, hostMove_refused_iff⟩

/-! ### The draws of a run (R143) -/

/-- A step answers a draw if it asks one, and never more than one. -/
theorem step_draws {s s' : State} (h : step s = .next s') :
    s'.draws = if s.stepAsksDraw then s.draws + 1 else s.draws := by
  obtain ⟨-, rfl⟩ | ⟨p, -, rfl⟩ | ⟨w, ws, p, -, -, rfl⟩ | ⟨w, ws, p, -, -, -, rfl⟩ := step_next_cases h
  · rfl
  all_goals
    rw [stepAsksDraw_idle p]
    rfl

/-- Under the laws a draw is asked for the first pulse of ShiftClock alone: the later pulses and the latch find their line
low (R104). -/
theorem SequencerInv.of_stepAsksDraw {s : State} (h : SequencerInv s) (hd : s.stepAsksDraw = true) :
    s.phase = .pulseClockHigh ∧ s.cnt = 0#4 ∧ s.out.shcp = .u := by
  obtain ⟨p, l⟩ | ⟨p, l⟩ := (stepAsksDraw_iff s.toMachineState).1 hd
  · have hu : s.out.shcp = .u := (lineLevel_of_allOutputs s .shcp (h.configured (by rw [p]; rfl))).symm.trans l
    refine ⟨p, ?_, hu⟩
    by_contra hcnt
    cases hu.symm.trans (h.clock_before (by rw [p]; rfl) hcnt)
  · have hu : s.out.stcp = .u := (lineLevel_of_allOutputs s .stcp (h.configured (by rw [p]; rfl))).symm.trans l
    cases hu.symm.trans (h.latch_low (.inr p))

/-- Settles O50: a count that has changed was changed by a draw, which the laws place; a frame leaves ShiftClock low (R84),
so that the next has no draw to ask. -/
theorem drawsAreAskedForTheFirstClockOnly : Obligations.DrawsAreAskedForTheFirstClockOnly := by
  refine ⟨fun s s' hinv hs hne => ?_, fun o o' v v' s p c => ?_⟩
  · rw [step_draws hs] at hne ⊢
    cases hd : s.stepAsksDraw with
    | true => exact ⟨rfl, hinv.of_stepAsksDraw hd⟩
    | false => simp [hd] at hne
  · exact ⟨_, _, perform_writeByte p c o v, perform_writeByte (s := frameReturn o v s) rfl c o' v', rfl⟩

/-! ### The return of every command (R144) -/

theorem stepsLeft_le (s : State) : stepsLeft s ≤ 42 := by
  rw [stepsLeft]
  split <;> omega

/-- The engine is `Idle` once the steps left are taken (R104). -/
theorem runSteps_stepsLeft {s : State} (h : SequencerInv s) :
    ∃ t, runSteps (stepsLeft s) s = .next t ∧ t.phase = .idle := by
  induction hn : stepsLeft s generalizing s with
  | zero =>
    refine ⟨s, rfl, ?_⟩
    by_contra p
    have hleft := stepsLeft_phaseStep h p
    omega
  | succ n ih =>
    have p : s.phase ≠ .idle := ne_idle_of_lt_stepsLeft (j := 0) (by omega)
    have hleft := stepsLeft_phaseStep h p
    rw [runSteps_succ_of_next (step_busy s p)]
    exact ih (stepKeepsTheSequencerLaws s _ h (step_busy s p)) (by omega)

theorem stepsLeft_pos {s : State} (h : SequencerInv s) (p : s.phase ≠ .idle) : 1 ≤ stepsLeft s := by
  have hleft := stepsLeft_phaseStep h p
  omega

/-- Settles O51: a busy step does not see the words offered; the engine is busy while steps are left (`stepsLeft`) and
`Idle` after them. -/
theorem everyCommandReturns : Obligations.EveryCommandReturns := by
  refine ⟨fun s p => ⟨phaseStep s, step_busy s p, fun ws => ?_⟩, fun s h p => ?_⟩
  · rw [step_busy (s.setOffers ws) p, phaseStep_setOffers]
  · refine ⟨stepsLeft s, stepsLeft_pos h p, stepsLeft_le s, fun j hj => ?_, runSteps_stepsLeft h⟩
    obtain ⟨u, hu, hbusy, -⟩ := runSteps_of_lt_stepsLeft j h hj
    exact ⟨u, hu, hbusy⟩

end Sys2Proof.Machine
end

section
/-! The statements of 70_reset_and_hazards.md: reset, the order the host owes the engine, two frames in a row, and the waits
of a command. -/

namespace Sys2Proof.Machine

/-! ### Reset (R161, R162) -/

/-- Settles O2: reset configures no line, so that none is driven; nothing is offered at the start of a run. -/
theorem noLineIsDrivenAfterReset : Obligations.NoLineIsDrivenAfterReset := by
  refine fun c => ⟨rfl, fun n => ?_, Stages.get_unknown, step_nothing_offered _ rfl rfl⟩
  exact lineLevel_of_unconfigured (State.resetAt c) n (by cases n <;> rfl)

/-- Settles O3: the two branches of the move. -/
theorem laterResetStartsANewRun : Obligations.LaterResetStartsANewRun :=
  fun _ _ => ⟨fun p => if_pos p, fun p => if_neg p⟩

/-! ### The required order (R165) -/

/-- A predicate under which a step is made and which the step keeps excludes a refusal for good. -/
theorem neverRefused_of_invariant {P : State → Prop} (hstep : ∀ s, P s → ∃ s', step s = .next s' ∧ P s') {s : State}
    (h : P s) : NeverRefused s := by
  intro k
  induction k generalizing s with
  | zero => exact ⟨s, rfl⟩
  | succ k ih =>
    obtain ⟨s', hs, h'⟩ := hstep s h
    rw [runSteps_succ_of_next hs]
    exact ih h'

theorem respectsInitOrder_writeByte_cons (b : Bool) (o : Order) (v : Byte) (is : List Instr) :
    respectsInitOrder b (writeByte o v :: is) = b := by
  cases o <;> rfl

/-- After an `INIT` every list of commands is in order. -/
theorem respectsInitOrder_true (is : List Instr) : respectsInitOrder true is = true := by
  cases is with
  | nil => rfl
  | cons i is => cases i <;> rfl

theorem hostKeepsOrder_of_allOutputs {s : State} (c : allOutputs s.cfg = true) : hostKeepsOrder s = true := by
  rw [hostKeepsOrder, c, Bool.true_or, respectsInitOrder_true]

theorem hostKeepsOrder_of_configure {s : State} (p : s.phase = .configure) : hostKeepsOrder s = true := by
  rw [hostKeepsOrder, decide_eq_true p, Bool.or_true, respectsInitOrder_true]

/-- Outside `Configure` the host's duty is that of the lines as they are. -/
theorem hostKeepsOrder_of_ne_configure {s : State} (p : s.phase ≠ .configure) :
    hostKeepsOrder s = respectsInitOrder (allOutputs s.cfg) (s.offers.map decode) := by
  rw [hostKeepsOrder, decide_eq_false p, Bool.or_false]

theorem phaseStep_ne_configure (s : State) (p : s.phase ≠ .configure) : (phaseStep s).phase ≠ .configure := by
  rw [phaseStep_phase]
  cases h : s.phase with
  | configure => exact absurd h p
  | shiftValue => rw [successor]; split <;> decide
  | _ => simp [successor]

/-- A busy step takes no word from the host, and leaves the lines as they are or makes them outputs. -/
theorem hostKeepsOrder_phaseStep {s : State} (h : hostKeepsOrder s = true) : hostKeepsOrder (phaseStep s) = true := by
  by_cases p : s.phase = .configure
  · exact hostKeepsOrder_of_allOutputs (by rw [phaseStep_cfg, if_pos p]; rfl)
  · rwa [hostKeepsOrder_of_ne_configure (phaseStep_ne_configure s p), phaseStep_cfg, if_neg p, phaseStep_offers,
      ← hostKeepsOrder_of_ne_configure p]

/-- Every step keeps the order: an accepted `INIT` is then in progress, and an accepted `WRB` found the lines outputs. -/
theorem hostKeepsOrder_of_step {s s' : State} (h : hostKeepsOrder s = true) (hs : step s = .next s') :
    hostKeepsOrder s' = true := by
  obtain ⟨-, rfl⟩ | ⟨-, -, rfl⟩ | ⟨w, ws, -, -, -, rfl⟩ | ⟨w, ws, -, -, -, c, rfl⟩ := step_next_cases hs
  · exact hostKeepsOrder_phaseStep h
  · exact h
  · exact hostKeepsOrder_of_configure rfl
  · exact hostKeepsOrder_of_allOutputs c

/-- The word of a refused step is a `WRB` before an `INIT` (R142). -/
theorem hostKeepsOrder_of_step_refused {s : State} {r : Refusal} (h : step s = .refused r) :
    hostKeepsOrder s = false := by
  obtain ⟨-, p, c, w, ws, e, b⟩ := (step_refused_iff s r).1 h
  rw [hostKeepsOrder_of_ne_configure (by simp [p]), (allOutputs_eq_false_iff s.cfg).2 c, e, List.map_cons, decode_wrb b,
    respectsInitOrder_writeByte_cons]

theorem step_next_of_hostKeepsOrder {s : State} (h : hostKeepsOrder s = true) :
    ∃ s', step s = .next s' ∧ hostKeepsOrder s' = true := by
  cases e : step s with
  | next s' => exact ⟨s', rfl, hostKeepsOrder_of_step h e⟩
  | fault r => cases r
  | refused r => exact absurd h (by simp [hostKeepsOrder_of_step_refused e])

theorem hostKeepsOrder_resetAt (c : ResetChoice) (ws : List CmdWord) :
    hostKeepsOrder ((State.resetAt c).setOffers ws) = respectsInitOrder false (ws.map decode) := rfl

/-- Settles O53: the required order is an invariant that excludes a refused step. -/
theorem requiredOrderIsNeverRefused : Obligations.RequiredOrderIsNeverRefused := by
  have hkeeps : ∀ s : State, hostKeepsOrder s = true → NeverRefused s := fun s h =>
    neverRefused_of_invariant (P := fun s => hostKeepsOrder s = true) (fun _ => step_next_of_hostKeepsOrder) h
  exact ⟨hkeeps, fun c ws h => hkeeps _ ((hostKeepsOrder_resetAt c ws).trans h)⟩

/-! ### Data and ShiftClock (R167, R129) -/

/-- Under the laws Data shows the extracted bit when ShiftClock is about to rise. -/
theorem SequencerInv.lineLevel_data {s : State} (h : SequencerInv s) (p : s.phase = .pulseClockHigh) :
    s.lineLevel .data = lvl (extractedBit s.ord s.val) := by
  have hout : s.out.data = lvl s.bit := h.data_driven (by rw [p]; rfl)
  have hbit : s.bit = extractedBit s.ord s.val := h.bit_held (by rw [p]; rfl)
  rw [lineLevel_of_allOutputs s .data (h.configured (by rw [p]; rfl)), Lines.get_data, hout, hbit]

/-- Settles O48: the step writes ShiftClock alone, and its edge samples the level Data shows. -/
theorem dataIsSetBeforeShiftClockRises : Obligations.DataIsSetBeforeShiftClockRises := by
  refine fun s s' hinv p hs => ⟨hinv.lineLevel_data p, ?_, fun hedge => ?_⟩
  · rw [step_of_phase p (by decide)] at hs
    cases hs
    rw [phaseStep_out_data, if_neg (by simp [p])]
  · rw [step_t hs, if_pos hedge, MachineState.shiftedChain, Stages.get_shiftIn_last, hinv.lineLevel_data p, bit3_lvl]

/-! ### Two frames in a row (R166, R174) -/

/-- The stage at risk holds the first bit if the first `setHigh(SHCP)` of the frame is a rising edge, and the old `T[7]` if
it is none (R85). -/
theorem get_frameChain_zero {s : State} (c : s.cfg = ⟨true, true, true⟩) (o : Order) (v : Byte) :
    (frameChain o v s).get 0 = if risingEdge .shcp s then tri (sentBit o v 0) else s.t.get 7 := by
  rw [frameChain_eq c]
  split <;> rfl

theorem risingEdge_shcp_of_out_low {s : State} (c : s.cfg = ⟨true, true, true⟩) (l : s.out.shcp = .low) :
    risingEdge .shcp s = true :=
  (risingEdge_low .shcp s ((lineLevel_of_configured s .shcp (by simp [c])).trans l)).1

theorem risingEdge_shcp_of_out_high {s : State} (c : s.cfg = ⟨true, true, true⟩) (l : s.out.shcp = .high) :
    risingEdge .shcp s = false :=
  (risingEdge_high .shcp s ((lineLevel_of_configured s .shcp (by simp [c])).trans l)).1

/-- Settles O54: stage 0 alone depends on the first edge, which a low ShiftClock makes sure and a high one excludes; the
second frame finds ShiftClock low. -/
theorem firstFrameHazard : Obligations.FirstFrameHazard := by
  intro o v s p c
  have hcfg : (frameReturn o v s).cfg = ⟨true, true, true⟩ := c
  have hlow : (frameReturn o v s).out.shcp = .low := rfl
  have hzero := get_frameChain_zero c o v
  refine ⟨frameReturn o v s, _, perform_writeByte p c o v, hlow, fun k hk => get_frameChain c o v hk, ?_, fun l => ?_,
    perform_writeByte rfl hcfg o v, get_frameChain_of_low hlow o v⟩
  · cases e : risingEdge .shcp s with
    | true => exact .inl (hzero.trans (if_pos e))
    | false =>
      have hne : s.out.shcp ≠ .low := fun l => by simp [risingEdge_shcp_of_out_low c l] at e
      exact .inr ⟨hne, hzero.trans (if_neg (by simp [e]))⟩
  · exact hzero.trans (if_neg (by simp [risingEdge_shcp_of_out_high c l]))

/-- Settles O55: the first frame leaves ShiftClock low (R84), so that the second replaces the whole chain by eight edges. -/
theorem noBleedThrough : Obligations.NoBleedThrough := by
  intro o o' v v' s p c
  have hidle : (frameReturn o v s).phase = .idle := rfl
  have hcfg : (frameReturn o v s).cfg = ⟨true, true, true⟩ := c
  have hlow : (frameReturn o v s).out.shcp = .low := rfl
  have hchain := frameChain_of_low hlow o' v'
  refine ⟨frameReturn o v s, _, _, perform_writeByte p c o v, exec_writeByte_idle hidle hcfg o' v',
    perform_writeByte hidle hcfg o' v', hchain, hchain, ?_, risingEdges_stcp_captureFrame hcfg o' v'⟩
  rw [risingEdges_shcp_captureFrame hcfg, risingEdge_shcp_of_out_low hcfg hlow, if_pos rfl]

/-! ### The waits of a command (R103, R176) -/

theorem count_busyWaitShort_waits (n : Nat) : (waits n).count .busyWaitShort = n := List.count_replicate_self

theorem count_busyWaitShort_bitEvents (b : Bool) : (bitEvents b).count .busyWaitShort = Config.wClk := by
  cases b <;> simp [bitEvents, driveEvent, count_busyWaitShort_waits]

/-- R103 places `W_CLK` waits in each bit, and `W_SETTLE` and `W_HOLD` around the latch. -/
theorem count_busyWaitShort_frameEvents (bits : List Bool) :
    (frameEvents bits).count .busyWaitShort = bits.length * Config.wClk + Config.wSettle + Config.wHold := by
  have hbits : (bits.flatMap bitEvents).count .busyWaitShort = bits.length * Config.wClk := by
    simp [List.count_flatMap, Function.comp_def, count_busyWaitShort_bitEvents]
  simp [frameEvents, hbits, count_busyWaitShort_waits, Nat.add_assoc]

/-- Settles O56: the three events of `INIT` hold no wait, and those of a `WRB` are `frameEvents` of eight bits. -/
theorem waitsOfACommand : Obligations.WaitsOfACommand := by
  refine fun s p => ⟨?_, fun o v c => ?_⟩
  · rw [commandTrace_init p]
    exact ⟨rfl, Nat.zero_mul _⟩
  · have hcount : (commandTrace (writeByte o v) s).count .busyWaitShort =
        8 * Config.wClk + Config.wSettle + Config.wHold := by
      rw [commandTrace_writeByte p c, count_busyWaitShort_frameEvents, length_sentBits]
    exact ⟨hcount, by rw [waitTime, hcount]⟩

end Sys2Proof.Machine
end
